-- ==== Sys2Proof/Word.lean ====
section
/-! DEFINITION. Words: the byte, the kind of a type byte, and byte strings (spec 00_scope.md R9). -/

namespace Sys2Proof

/-- A byte, bits 7 (most significant) down to 0 (R9). Every scalar of the block is unsigned. -/
abbrev Byte := BitVec 8

/-- The kind of a type byte: its bits 7:1, 0 to 127 (R52). -/
abbrev Kind := BitVec 7

/-- A byte string, offset 0 first (R9): a frame, a chunk, a body, a payload. -/
abbrev Bytes := List (BitVec 8)

end Sys2Proof
end

