-- ==== Sys2Proof/Config.lean ====
section
/-! DEFINITION. The implementation parameters of spec 00_scope.md R7 and the one free value of the model. -/

namespace Sys2Proof

/-- The parameters of R7: configuration, fixed before reset is released and never changed by a step. A capacity is
`none` where it is unbounded. -/
structure Params where
  /-- `PACKET_SIZE`, the exact number of bytes of every frame on the wire, 9 to 255 (R7, R8). -/
  packetSize : Nat
  /-- `TX_PARITY`, bit 0 of every type byte this engine transmits (R7, R53). -/
  txParity : BitVec 1
  /-- `MARKER_BYTE`, the byte recorded for a received PING or PONG (R7, R151). -/
  marker : Byte
  /-- `QUEUE_DEPTH`, the number of transfers the queue holds (R7, R14). -/
  queueDepth : Option Nat
  /-- `RS_ENTRIES`, the number of entries the reassembly store holds (R7, R17). -/
  rsEntries : Option Nat
  /-- `RS_ENTRY_BYTES`, the longest buffer of one entry (R7, R17). -/
  rsEntryBytes : Option Nat
  /-- `HANDLER`, the type of a handler token (R7), by the number of its tokens: the tokens are opaque, so a type with
  decidable equality is given by how many it has, `none` for one that does not end (log 6). -/
  handlers : Option Nat
  deriving DecidableEq, Repr

/-- `BODY_MAX = PACKET_SIZE - 8` (R7). -/
def Params.bodyMax (p : Params) : Nat := p.packetSize - 8

/-- `RX_PARITY = 1 - TX_PARITY` (R7). -/
def Params.rxParity (p : Params) : BitVec 1 := 1 - p.txParity

/-- The ranges of R7 and R8: 9 to 255 bytes in a frame, each bounded capacity positive. -/
abbrev Params.legal (p : Params) : Prop :=
  9 ≤ p.packetSize ∧ p.packetSize ≤ 255 ∧
    p.queueDepth ≠ some 0 ∧ p.rsEntries ≠ some 0 ∧ p.rsEntryBytes ≠ some 0

/-- `MAX_PAYLOAD`, the longest payload `submit` accepts (R7). -/
def maxPayload : Nat := 65535

/-- FREE VALUE (log 4). The `MARKER_BYTE` of the machine that comes out of reset: the spec leaves it OPEN and gives no
value, so nothing can be proved of this one. -/
opaque Config.markerByte : Byte

/-- The parameters of the machine that comes out of reset. `TX_PARITY = 1` is the spec's value for this hardware (R7).
DESIGN CHOICE, unsafe (logs 2, 3 and 6): `PACKET_SIZE = 96`, the unbounded capacities and the unbounded `HANDLER` are the
model's, R7 leaves them OPEN; no statement rests on them. -/
def Params.shipped : Params where
  packetSize := 96
  txParity := 1
  marker := Config.markerByte
  queueDepth := none
  rsEntries := none
  rsEntryBytes := none
  handlers := none

end Sys2Proof
end

