-- ==== Sys2Proof/Syntax.lean ====
section
/-! DEFINITION. The syntax: frames as operands, one constructor of `Instr` per row of spec/opcode_table.json, the words in
which an instruction is presented, and the reasons decoding rejects one. -/

namespace Sys2Proof

/-- A `HANDLER` token (R7, R18): opaque to the engine. DESIGN CHOICE, safe (log 6): tokens are numbered, and which numbers
are tokens is the parameter `HANDLER`. -/
structure Handler where
  token : Nat
  deriving DecidableEq, Repr

/-- Whether a token is of the type the parameter `HANDLER` gives (R7). -/
def Handler.ofType (p : Params) (h : Handler) : Bool :=
  match p.handlers with
  | none => true
  | some n => decide (h.token < n)

/-- The fields of a decoded inbound frame beside its type byte (R58, R78). `length` is `8 + len(body)` by R78, so it is
computed, not stored; the reserved bytes (R57) are kept because the checksum covers them; `synthetic` is the transient
`F.synthetic` of R20 and R79. -/
structure Frame where
  seq : Byte
  ctx : Byte
  cks : Byte
  r5 : Byte
  r6 : Byte
  r7 : Byte
  body : Bytes
  synthetic : Bool
  deriving DecidableEq, Repr

/-- The rows of R54 and R72 for a type byte whose origin bit has been taken off: seven control kinds and the five
patterns that together are the data kinds 7 to 127, each with the bits its pattern leaves free. -/
inductive KindRow where
  | noop
  | ping
  | pong
  | ack
  | reject
  | start
  | fin
  /-- kind 7: `00001110` / `00001111` -/
  | data7
  /-- kinds 8 to 15: `0001xxx0` / `0001xxx1` -/
  | data8 (x : BitVec 3)
  /-- kinds 16 to 31: `001xxxx0` / `001xxxx1` -/
  | data16 (x : BitVec 4)
  /-- kinds 32 to 63: `01xxxxx0` / `01xxxxx1` -/
  | data32 (x : BitVec 5)
  /-- kinds 64 to 127: `1xxxxxx0` / `1xxxxxx1` -/
  | data64 (x : BitVec 6)
  deriving DecidableEq, Repr

/-- The instructions, in the sense of R6: one constructor per row of spec/opcode_table.json. An `rx…` instruction is one
inbound frame processed by one tick; a `tx…` instruction is the transmission of one frame; the last four are the host
commands. -/
inductive Instr where
  /-- RX_OWN_ORIGIN: an inbound frame whose origin bit is `TX_PARITY` (R109); `k` is its kind. -/
  | rxOwnOrigin (k : Kind) (f : Frame)
  /-- RX_NOOP, real or synthetic (R121, R122, R134). -/
  | rxNoop (f : Frame)
  /-- RX_PING (R151). -/
  | rxPing (f : Frame)
  /-- RX_PONG (R151). -/
  | rxPong (f : Frame)
  /-- RX_ACK (R130 to R133, R135). -/
  | rxAck (f : Frame)
  /-- RX_REJECT (R127). -/
  | rxReject (f : Frame)
  /-- RX_START (R128). -/
  | rxStart (f : Frame)
  /-- RX_END (R129). -/
  | rxEnd (f : Frame)
  /-- RX_DATA_0E (R125, R126). -/
  | rxData0E (f : Frame)
  /-- RX_DATA_10_1E (R125, R126). -/
  | rxData10 (x : BitVec 3) (f : Frame)
  /-- RX_DATA_20_3E (R125, R126). -/
  | rxData20 (x : BitVec 4) (f : Frame)
  /-- RX_DATA_40_7E (R125, R126). -/
  | rxData40 (x : BitVec 5) (f : Frame)
  /-- RX_DATA_80_FE (R125, R126). -/
  | rxData80 (x : BitVec 6) (f : Frame)
  /-- TX_NOOP, the keep-alive (R59). -/
  | txNoop
  /-- TX_PING (R60). -/
  | txPing
  /-- TX_PONG (R61). -/
  | txPong (ctx : Byte)
  /-- TX_ACK (R62). -/
  | txAck (seq ctx : Byte)
  /-- TX_REJECT (R63); `ty` is the rejected frame's type byte. -/
  | txReject (seq ctx ty : Byte)
  /-- TX_START (R64); `dt` is the type byte the fragments will carry, `rem` the number of bytes still to send. -/
  | txStart (seq ctx dt : Byte) (rem : BitVec 16)
  /-- TX_END (R65). -/
  | txEnd (seq ctx : Byte)
  /-- TX_DATA_0F (R66). -/
  | txData0F (seq ctx : Byte) (body : Bytes)
  /-- TX_DATA_11_1F (R66). -/
  | txData11 (x : BitVec 3) (seq ctx : Byte) (body : Bytes)
  /-- TX_DATA_21_3F (R66). -/
  | txData21 (x : BitVec 4) (seq ctx : Byte) (body : Bytes)
  /-- TX_DATA_41_7F (R66). -/
  | txData41 (x : BitVec 5) (seq ctx : Byte) (body : Bytes)
  /-- TX_DATA_81_FF (R66). -/
  | txData81 (x : BitVec 6) (seq ctx : Byte) (body : Bytes)
  /-- TICK (R105). -/
  | tick
  /-- SUBMIT (R90). -/
  | submit (payload : Bytes) (ty ctx : Byte)
  /-- REGISTER (R158). -/
  | register (ty : Byte) (handler : Handler)
  /-- PING (R159). -/
  | ping
  deriving DecidableEq, Repr

/-- What stands on the host command port: the 2-bit code and the operand lines (R34, R68). A command reads the operands
R68 gives it and no other. -/
structure CmdWord where
  code : BitVec 2
  payload : Bytes
  ty : Byte
  ctx : Byte
  handler : Handler
  deriving DecidableEq, Repr

/-- A REGISTER, the one command that reads the handler line, carries a token of the type `HANDLER` (R7, R68). -/
def CmdWord.typed (p : Params) (w : CmdWord) : Bool := w.code != 2 || w.handler.ofType p

/-- An instruction as it is presented to the machine, one alternative per code space of the opcode table. -/
inductive Presented where
  /-- a word on the host command port (R68) -/
  | command (w : CmdWord)
  /-- a chunk the inbound read returned (R32) -/
  | inbound (raw : Bytes)
  /-- a frame as it goes to the outbound channel (R50) -/
  | outbound (f : Bytes)
  deriving DecidableEq, Repr

/-- Why a byte string is not one of the transmitted frames of R59 to R66. Command words and inbound chunks are never
rejected: every code and every chunk has a meaning (R69, R72). -/
inductive Reject where
  /-- not exactly `PACKET_SIZE` bytes (R50) -/
  | txSize
  /-- the length byte is below 8 or above `PACKET_SIZE` (R51) -/
  | txLength
  /-- the checksum byte is wrong (R56) -/
  | txChecksum
  /-- a reserved byte is not zero (R57) -/
  | txReserved
  /-- a padding byte is not zero (R50) -/
  | txPadding
  /-- the origin bit is not `TX_PARITY` (R53) -/
  | txOrigin
  /-- the fields are not those its kind's rule gives encode (R59 to R66) -/
  | txForm
  deriving DecidableEq, Repr

end Sys2Proof
end

