-- ==== Sys2Proof/WellFormed.lean ====
section
/-! DEFINITION. Which instructions the encodings of the spec can hold: body lengths, the synthetic NOOP's fixed fields,
START's announcement, REGISTER's token. -/

namespace Sys2Proof

/-- The synthetic NOOP of R79. `decode` gives it no checksum byte and no reserved bytes; they are 0 here and no rule
reads them (log 13). -/
def Frame.syntheticNoop : Frame := ⟨0, 0, 0, 0, 0, 0, [], true⟩

/-- A real frame fits the chunk: its body has at most `BODY_MAX` bytes (R50). -/
def Frame.fits (p : Params) (f : Frame) : Bool := !f.synthetic && decide (f.body.length ≤ p.bodyMax)

/-- A fragment's body has 1 to `BODY_MAX` bytes (R66). -/
def fragmentFits (p : Params) (body : Bytes) : Bool :=
  decide (1 ≤ body.length) && decide (body.length ≤ p.bodyMax)

/-- START announces a data type byte of this side (kind at least 7, origin bit `TX_PARITY`), and what its truncated
body cannot carry when `PACKET_SIZE` is 9 or 10 is zero in the term (R64, R77). -/
def startFits (p : Params) (dt : Byte) (rem : BitVec 16) : Bool :=
  decide (7 ≤ (dt.extractLsb' 1 7).toNat) && decide (dt.extractLsb' 0 1 = p.txParity) &&
    (decide (3 ≤ p.bodyMax) || (decide (p.bodyMax = 2) && decide (rem.extractLsb' 0 8 = 0)) ||
      decide (rem = 0))

/-- An instruction the encodings of the spec can hold. SUBMIT takes every operand: what it refuses, it
refuses with a status (R91), not as an encoding. REGISTER takes a token of the type `HANDLER` (R68). -/
def Instr.wellFormed (p : Params) : Instr → Bool
  | .rxOwnOrigin _ f => f.fits p
  | .rxNoop f => f.fits p || decide (f = Frame.syntheticNoop)
  | .rxPing f => f.fits p
  | .rxPong f => f.fits p
  | .rxAck f => f.fits p
  | .rxReject f => f.fits p
  | .rxStart f => f.fits p
  | .rxEnd f => f.fits p
  | .rxData0E f => f.fits p
  | .rxData10 _ f => f.fits p
  | .rxData20 _ f => f.fits p
  | .rxData40 _ f => f.fits p
  | .rxData80 _ f => f.fits p
  | .txNoop => true
  | .txPing => true
  | .txPong _ => true
  | .txAck _ _ => true
  | .txReject _ _ _ => true
  | .txStart _ _ dt rem => startFits p dt rem
  | .txEnd _ _ => true
  | .txData0F _ _ body => fragmentFits p body
  | .txData11 _ _ _ body => fragmentFits p body
  | .txData21 _ _ _ body => fragmentFits p body
  | .txData41 _ _ _ body => fragmentFits p body
  | .txData81 _ _ _ body => fragmentFits p body
  | .tick => true
  | .submit _ _ _ => true
  | .register _ handler => handler.ofType p
  | .ping => true

end Sys2Proof
end

