-- ==== Sys2Proof/Decode.lean ====
section
/-! DEFINITION. The packet codec (spec 40_codec.md), the classification of a type byte (30_encoding.md R52 to R54, R72),
the decoder of every presented word, and after it the encoder. -/

namespace Sys2Proof

/-! ### The type byte -/

/-- `kind(t) = t[7:1]` (R52). -/
def kind (t : Byte) : Kind := t.extractLsb' 1 7

/-- `origin(t) = t[0]` (R52). -/
def origin (t : Byte) : BitVec 1 := t.extractLsb' 0 1

/-- The type byte of a kind with an origin bit: `2 * kind + origin` (R52). -/
def typeByte (k : Kind) (o : BitVec 1) : Byte := k ++ o

/-- `t | TX_PARITY`, the byte under which this side sends a type (R54, R64, R66). -/
def withParity (t : Byte) (o : BitVec 1) : Byte := t ||| o.setWidth 8

/-- The row of R54 and R72 a kind belongs to, with the bits the row's pattern leaves free. -/
def rowOfKind (k : Kind) : KindRow :=
  if k = 0 then .noop
  else if k = 1 then .ping
  else if k = 2 then .pong
  else if k = 3 then .ack
  else if k = 4 then .reject
  else if k = 5 then .start
  else if k = 6 then .fin
  else if k = 7 then .data7
  else if k.toNat < 16 then .data8 (k.extractLsb' 0 3)
  else if k.toNat < 32 then .data16 (k.extractLsb' 0 4)
  else if k.toNat < 64 then .data32 (k.extractLsb' 0 5)
  else .data64 (k.extractLsb' 0 6)

/-- The kind of a row: its fixed bits with its free bits (R54). -/
def kindOf : KindRow → Kind
  | .noop => 0
  | .ping => 1
  | .pong => 2
  | .ack => 3
  | .reject => 4
  | .start => 5
  | .fin => 6
  | .data7 => 7
  | .data8 x => (1 : BitVec 4) ++ x
  | .data16 x => (1 : BitVec 3) ++ x
  | .data32 x => (1 : BitVec 2) ++ x
  | .data64 x => (1 : BitVec 1) ++ x

/-! ### checksum and encode -/

/-- `checksum(f, n)` (R75): seeded with the byte at offset 0, it folds in the bytes at offsets 1 to `n - 1` except
offset 4. -/
def checksum (f : Bytes) (n : Nat) : Byte :=
  (((f.take n).drop 1).eraseIdx 3).foldl (· ^^^ ·) (f.headD 0)

/-- `zeros(n)` (R9). -/
def zeros (n : Nat) : Bytes := List.replicate n 0

/-- `encode(t, s, c, body)` (R76), the body cut to `BODY_MAX` bytes first (R77). -/
def encodeFrame (p : Params) (t s c : Byte) (body : Bytes) : Bytes :=
  let b := body.take p.bodyMax
  let n := 8 + b.length
  let f := [t, s, c, BitVec.ofNat 8 n, 0, 0, 0, 0] ++ b ++ zeros (p.packetSize - n)
  f.set 4 (checksum f n)

/-! ### decode -/

/-- `F.length` of a decoded frame (R78). -/
def Frame.length (f : Frame) : Nat := 8 + f.body.length

/-- The bytes at offsets 0 to `length - 1` of a real frame (R50, R58). -/
def frameBytes (t : Byte) (f : Frame) : Bytes :=
  [t, f.seq, f.ctx, BitVec.ofNat 8 f.length, f.cks, f.r5, f.r6, f.r7] ++ f.body

/-- `decode(raw)` (R78): the type byte and the other fields of the frame in a chunk, or the synthetic NOOP for a chunk of
fewer than 8 bytes or with a length byte below 8 or above the bytes read (R79). -/
def decodeFrame (p : Params) (raw : Bytes) : Byte × Frame :=
  match raw with
  | t :: s :: c :: n :: k :: r5 :: r6 :: r7 :: rest =>
    if n.toNat < 8 ∨ raw.length < n.toNat then (typeByte 0 p.rxParity, Frame.syntheticNoop)
    else (t, ⟨s, c, k, r5, r6, r7, rest.take (n.toNat - 8), false⟩)
  | _ => (typeByte 0 p.rxParity, Frame.syntheticNoop)

/-- The inbound instruction of a row of peer origin (R72). -/
def rxInstr (r : KindRow) (f : Frame) : Instr :=
  match r with
  | .noop => .rxNoop f
  | .ping => .rxPing f
  | .pong => .rxPong f
  | .ack => .rxAck f
  | .reject => .rxReject f
  | .start => .rxStart f
  | .fin => .rxEnd f
  | .data7 => .rxData0E f
  | .data8 x => .rxData10 x f
  | .data16 x => .rxData20 x f
  | .data32 x => .rxData40 x f
  | .data64 x => .rxData80 x f

/-- The classification of an inbound frame by its type byte, complete over all 256 values (R72). -/
def classify (p : Params) (t : Byte) (f : Frame) : Instr :=
  if origin t = p.txParity then .rxOwnOrigin (kind t) f else rxInstr (rowOfKind (kind t)) f

/-- The inbound instruction in a chunk. -/
def decodeInbound (p : Params) (raw : Bytes) : Instr :=
  classify p (decodeFrame p raw).1 (decodeFrame p raw).2

/-- START's body, as much of it as fits a frame: the type byte the fragments will carry and the remaining length, the
more significant byte first (R36, R64). -/
def startBody (dt : Byte) (rem : BitVec 16) : Bytes := [dt, rem.extractLsb' 8 8, rem.extractLsb' 0 8]

/-- The START a transmitted body stands for, the bytes a 9- or 10-byte frame cannot carry read as zero (R64, R77). -/
def decodeStart (p : Params) (s c : Byte) (body : Bytes) : Except Reject Instr :=
  match body with
  | dt :: rest =>
    if rest.length + 1 = min 3 p.bodyMax ∧ 7 ≤ (kind dt).toNat ∧ origin dt = p.txParity then
      .ok (.txStart s c dt (rest.getD 0 0 ++ rest.getD 1 0))
    else .error .txForm
  | [] => .error .txForm

/-- A transmitted frame's fields, against what R59 to R66 give encode for its kind. -/
def decodeSent (p : Params) (r : KindRow) (s c : Byte) (body : Bytes) : Except Reject Instr :=
  match r with
  | .noop => if s = 0 ∧ c = 0 ∧ body = [] then .ok .txNoop else .error .txForm
  | .ping => if s = 0 ∧ c = 0 ∧ body = [] then .ok .txPing else .error .txForm
  | .pong => if s = 0 ∧ body = [] then .ok (.txPong c) else .error .txForm
  | .ack => if body = [] then .ok (.txAck s c) else .error .txForm
  | .reject => if body.length = 1 then .ok (.txReject s c (body.headD 0)) else .error .txForm
  | .start => decodeStart p s c body
  | .fin => if body = [] then .ok (.txEnd s c) else .error .txForm
  | .data7 => if body ≠ [] then .ok (.txData0F s c body) else .error .txForm
  | .data8 x => if body ≠ [] then .ok (.txData11 x s c body) else .error .txForm
  | .data16 x => if body ≠ [] then .ok (.txData21 x s c body) else .error .txForm
  | .data32 x => if body ≠ [] then .ok (.txData41 x s c body) else .error .txForm
  | .data64 x => if body ≠ [] then .ok (.txData81 x s c body) else .error .txForm

/-- The transmitted instruction in a frame on its way to the outbound channel (R50, R53, R56, R57). -/
def decodeOutbound (p : Params) (f : Bytes) : Except Reject Instr :=
  match f with
  | t :: s :: c :: n :: k :: r5 :: r6 :: r7 :: rest =>
    if f.length ≠ p.packetSize then .error .txSize
    else if n.toNat < 8 ∨ p.packetSize < n.toNat then .error .txLength
    else if checksum f n.toNat ≠ k then .error .txChecksum
    else if r5 ≠ 0 ∨ r6 ≠ 0 ∨ r7 ≠ 0 then .error .txReserved
    else if rest.drop (n.toNat - 8) ≠ zeros (p.packetSize - n.toNat) then .error .txPadding
    else if origin t ≠ p.txParity then .error .txOrigin
    else decodeSent p (rowOfKind (kind t)) s c (rest.take (n.toNat - 8))
  | _ => .error .txSize

/-- The host command on the command port: all four codes are defined (R68, R69(g)). -/
def decodeCommand (w : CmdWord) : Instr :=
  if w.code = 0 then .tick
  else if w.code = 1 then .submit w.payload w.ty w.ctx
  else if w.code = 2 then .register w.ty w.handler
  else .ping

/-- The decoder: total, and it rejects only what is presented as a transmitted frame and is none. -/
def decode (p : Params) : Presented → Except Reject Instr
  | .command w => .ok (decodeCommand w)
  | .inbound raw => .ok (decodeInbound p raw)
  | .outbound f => decodeOutbound p f

/-! ### The encoder -/

/-- The chunk a decoded inbound frame stands in: its bytes and zero padding (R50); nothing for the synthetic NOOP, which
an empty chunk decodes to (R79). -/
def chunkOf (p : Params) (t : Byte) (f : Frame) : Bytes :=
  if f.synthetic then [] else frameBytes t f ++ zeros (p.packetSize - f.length)

/-- The chunk of a peer frame of a row. -/
def peerChunk (p : Params) (r : KindRow) (f : Frame) : Presented :=
  .inbound (chunkOf p (typeByte (kindOf r) p.rxParity) f)

/-- The frame this side sends under a row (R53, R59 to R66). -/
def sentFrame (p : Params) (r : KindRow) (s c : Byte) (body : Bytes) : Bytes :=
  encodeFrame p (typeByte (kindOf r) p.txParity) s c body

/-- The encoder: the words of an instruction, operand lines a command does not read at zero (R68). -/
def encode (p : Params) : Instr → Presented
  | .rxOwnOrigin k f => .inbound (chunkOf p (typeByte k p.txParity) f)
  | .rxNoop f => peerChunk p .noop f
  | .rxPing f => peerChunk p .ping f
  | .rxPong f => peerChunk p .pong f
  | .rxAck f => peerChunk p .ack f
  | .rxReject f => peerChunk p .reject f
  | .rxStart f => peerChunk p .start f
  | .rxEnd f => peerChunk p .fin f
  | .rxData0E f => peerChunk p .data7 f
  | .rxData10 x f => peerChunk p (.data8 x) f
  | .rxData20 x f => peerChunk p (.data16 x) f
  | .rxData40 x f => peerChunk p (.data32 x) f
  | .rxData80 x f => peerChunk p (.data64 x) f
  | .txNoop => .outbound (sentFrame p .noop 0 0 [])
  | .txPing => .outbound (sentFrame p .ping 0 0 [])
  | .txPong ctx => .outbound (sentFrame p .pong 0 ctx [])
  | .txAck seq ctx => .outbound (sentFrame p .ack seq ctx [])
  | .txReject seq ctx ty => .outbound (sentFrame p .reject seq ctx [ty])
  | .txStart seq ctx dt rem => .outbound (sentFrame p .start seq ctx (startBody dt rem))
  | .txEnd seq ctx => .outbound (sentFrame p .fin seq ctx [])
  | .txData0F seq ctx body => .outbound (sentFrame p .data7 seq ctx body)
  | .txData11 x seq ctx body => .outbound (sentFrame p (.data8 x) seq ctx body)
  | .txData21 x seq ctx body => .outbound (sentFrame p (.data16 x) seq ctx body)
  | .txData41 x seq ctx body => .outbound (sentFrame p (.data32 x) seq ctx body)
  | .txData81 x seq ctx body => .outbound (sentFrame p (.data64 x) seq ctx body)
  | .tick => .command ⟨0, [], 0, 0, ⟨0⟩⟩
  | .submit payload ty ctx => .command ⟨1, payload, ty, ctx, ⟨0⟩⟩
  | .register ty handler => .command ⟨2, [], ty, 0, handler⟩
  | .ping => .command ⟨3, [], 0, 0, ⟨0⟩⟩

/-! ### The opcode table's words -/

/-- The body with which a table word is completed to a frame this side can send: the shortest its kind's rule allows,
zero bytes (R59 to R66), a REJECT of a NOOP of the peer, a START announcing zero bytes of the lowest data type. -/
def tableBody (p : Params) (r : KindRow) : Bytes :=
  match r with
  | .noop | .ping | .pong | .ack | .fin => []
  | .reject => [typeByte 0 p.rxParity]
  | .start => startBody (typeByte 7 p.txParity) 0
  | .data7 | .data8 _ | .data16 _ | .data32 _ | .data64 _ => [0]

/-- A word of spec/opcode_table.json as it is presented (log 11). Fewer than 8 bits are a command code with operand
lines of zero; a whole header or more (64 bits) is a chunk as it stands; otherwise the low byte is a type byte (then
sequence and context), with the length and checksum bytes a frame needs: the frame this side sends if the origin bit is
`TX_PARITY`, else the peer's frame with an empty body. -/
def tableWord (p : Params) (nbits w : Nat) : Presented :=
  let byte := fun i => BitVec.ofNat 8 (w >>> (8 * i))
  if nbits < 8 then .command ⟨BitVec.ofNat 2 w, [], 0, 0, ⟨0⟩⟩
  else if 64 ≤ nbits then .inbound ((List.range (nbits / 8)).map byte)
  else if origin (byte 0) = p.txParity then
    .outbound (encodeFrame p (byte 0) (byte 1) (byte 2) (tableBody p (rowOfKind (kind (byte 0)))))
  else .inbound (encodeFrame p (byte 0) (byte 1) (byte 2) [])

/-- The instruction the decoder reads from a word of spec/opcode_table.json, for the parameters of the machine after
reset (the table is written for `TX_PARITY = 1`). -/
def decodeTableWord (nbits w : Nat) : Option Instr :=
  match decode Params.shipped (tableWord Params.shipped nbits w) with
  | .ok i => some i
  | .error _ => none

end Sys2Proof
end

