-- ==== Sys2Proof/Machine/State.lean ====
section
/-! DEFINITION. The state (spec 10_state.md R10 to R26): the six elements of the engine, its parameters, and what the
model keeps of the world outside the block (channels, deliveries, answers, pending requests) as the model's own fields. -/

namespace Sys2Proof.Machine

/-- `STATE`, the EngineState (R13). -/
inductive EngineState where
  | idle
  | awaitStartAck
  | sending
  | receiving
  deriving DecidableEq, Repr

/-- OutboundTransfer, "one in-flight send" (R15). -/
structure Transfer where
  payload : Bytes
  cursor : Nat
  dtype : Byte
  ctx : Byte
  nextSeq : Byte
  deriving DecidableEq, Repr

/-- ReassemblyEntry (R17): the key is the type byte as received and the context. -/
structure Entry where
  ty : Byte
  ctx : Byte
  buf : Bytes
  deriving DecidableEq, Repr

/-- A row of the callback registry (R18): `NONE`, `AUTO_PONG` or `USER(h)`. -/
inductive Registration where
  | unregistered
  | autoPong
  | user (h : Handler)
  deriving DecidableEq, Repr

/-- `REG`: 128 rows indexed by kind (R18). -/
abbrev Registry := Vector Registration 128

/-- The status codes of the command port (R171). -/
inductive Status where
  | ok
  | ioFail
  | refusedType
  | refusedLen
  | refusedFull
  deriving DecidableEq, Repr

/-- A byte-addressable channel of R30, as cells (offset, byte). -/
abbrev Memory := List Host.Cell

/-- The canonical form of a channel: an append-only log of n bytes lists exactly the offsets 0 to n - 1, in order. An
offset that is not listed holds no byte, so no entry can equal what an unlisted offset reads as. -/
abbrev Memory.wf (m : Memory) : Prop := m.map Prod.fst = List.range m.length

/-- One `CbDeliver(h, t, c, p)` (R33). `outLen` is the length `OUT` had at the call, which orders it among the appends
(R41(b)); it is the model's own (log 19). -/
structure Delivery where
  handler : Handler
  ty : Byte
  ctx : Byte
  payload : Bytes
  outLen : Nat
  deriving DecidableEq, Repr

/-- What `RxReadLatest` answers during a command (R32), an input the environment chooses (log 9). -/
inductive RxAnswer where
  /-- the read reports failure -/
  | fail
  /-- the most recent bytes of `IN` -/
  | latest
  /-- the most recent bytes of any byte string: R32 lets the environment choose freely -/
  | bytes (raw : Bytes)
  deriving DecidableEq, Repr

/-- One request of the environment: a host command or reset. The engine does nothing outside them (R3, R190; log 7). -/
inductive Request where
  /-- The host presents a command. Before it runs the peer has appended `peer` to `IN`; during it the inbound read
  answers `rx` and the appends answer `tx` in order, `ok` when the list is used up. -/
  | command (w : CmdWord) (peer : Bytes) (rx : RxAnswer) (tx : List Bool)
  /-- Reset, between commands (R190). -/
  | reset
  /-- The host presents a command as above, and reset is applied while it runs, after the first `effects` of its effects
  outside the block: frames appended and callbacks delivered (R191, log 14). -/
  | abandoned (w : CmdWord) (peer : Bytes) (rx : RxAnswer) (tx : List Bool) (effects : Nat)
  deriving DecidableEq, Repr

/-- The machine. -/
structure State where
  /-- the parameters (R7); no step changes them -/
  cfg : Params
  /-- `STATE` (R13) -/
  engine : EngineState
  /-- `Q` (R14), head first -/
  q : List Transfer
  /-- `LAST.valid` (R16) -/
  lastValid : Bool
  /-- `LAST.frame` (R16) -/
  lastFrame : Bytes
  /-- `RS` (R17), in order of creation -/
  rs : List Entry
  /-- `REG` (R18) -/
  reg : Registry
  /-- `FAULT` (R19): bit 0 `IOERR`, bit 1 `RS_OVF` -/
  fault : BitVec 2
  /-- the channel `OUT` (R30) -/
  out : Memory
  /-- the channel `IN` (R30) -/
  inp : Memory
  /-- the `CbDeliver` calls so far, oldest first (R33) -/
  delivered : List Delivery
  /-- the status the last command answered with (R171), none before the first -/
  status : Option Status
  /-- the inbound port's answer during the current command (R32) -/
  rxAns : RxAnswer
  /-- the outbound port's answers still to come during the current command (R31) -/
  txAns : List Bool
  /-- the environment's requests still to come -/
  pending : List Request
  deriving DecidableEq, Repr

/-- The machine never stops with a fault: "None of them stops the engine" (R170). Every fault of 60_exceptions.md is a
next state. So this type has no constructor, which is safe: nothing is cut short. -/
inductive Fault where
  deriving DecidableEq, Repr

/-- Why a step is refused: never, all instructions having their meaning. -/
inductive Refusal where
  /-- Raised by `exec` for an instruction without a meaning: none is left. Safe. -/
  | notModelled (mnemonic : String)
  deriving DecidableEq, Repr

/-- What a transmission leaves: it went out, or the transport failed and the command is over (R107, R176). -/
inductive Sent where
  | ok (s : State)
  | failed (s : State)
  deriving DecidableEq, Repr

/-- `REG` at reset: row 1 (PING) is `AUTO_PONG`, every other row `NONE` (R18, R24). -/
def Registry.atReset : Registry := (Vector.replicate 128 Registration.unregistered).set 1 .autoPong

/-- The machine right after reset (R24, R190). DESIGN CHOICE, unsafe (log 5): `LAST.frame`, which R24 leaves
unspecified, holds `PACKET_SIZE` zero bytes. The fields outside the block start empty (log 8). -/
def State.reset : State where
  cfg := Params.shipped
  engine := .idle
  q := []
  lastValid := false
  lastFrame := List.replicate Params.shipped.packetSize 0
  rs := []
  reg := Registry.atReset
  fault := 0
  out := []
  inp := []
  delivered := []
  status := none
  rxAns := .latest
  txAns := []
  pending := []

end Sys2Proof.Machine
end

