-- ==== Sys2Proof/Machine/Flags.lean ====
section
/-! DEFINITION. The one-bit conditions of spec 10_state.md R20, the fault register's bits (R19), and the codes the host
reads (R13, R68, R171). -/

namespace Sys2Proof.Machine

/-- `F.valid` of an inbound frame with type byte `t`: the checksum byte is the one recomputed over the received bytes
(R78, R80); the synthetic NOOP is deemed valid (R79). -/
def frameValid (t : Byte) (f : Frame) : Bool :=
  f.synthetic || checksum (frameBytes t f) f.length == f.cks

/-- `FAULT` bit 0, `IOERR` (R19). -/
def ioErrBit : BitVec 2 := 1

/-- `FAULT` bit 1, `RS_OVF` (R19). -/
def rsOvfBit : BitVec 2 := 2

/-- `len(Q) > 0`, "queue non-empty" (R14, R20): it counts the in-flight transfer. -/
def State.queueNonEmpty (s : State) : Bool := !s.q.isEmpty

/-- `rem = len(payload) - cursor`, the bytes still to send (R15). -/
def Transfer.rem (h : Transfer) : Nat := h.payload.length - h.cursor

/-- "more payload remains" (R20, R131). -/
def Transfer.moreRemains (h : Transfer) : Bool := decide (0 < h.rem)

/-- The encoding of `STATE` (R13). -/
def EngineState.code : EngineState → BitVec 2
  | .idle => 0
  | .awaitStartAck => 1
  | .sending => 2
  | .receiving => 3

/-- The status codes (R171). -/
def Status.code : Status → BitVec 3
  | .ok => 0
  | .ioFail => 1
  | .refusedType => 2
  | .refusedLen => 3
  | .refusedFull => 4

/-- What the host can read besides a command's status: `STATE`, `len(Q)`, `FAULT` (R25, R34). -/
def State.hostRead (s : State) : BitVec 2 × Nat × BitVec 2 := (s.engine.code, s.q.length, s.fault)

end Sys2Proof.Machine
end

