-- ==== Sys2Proof/Machine/Operands.lean ====
section
/-! DEFINITION. Operand forms: the frames this engine transmits, as the rules of spec 30_encoding.md section 4 give
their fields, and the operands a row reads from the head transfer. -/

namespace Sys2Proof.Machine

/-- The next fragment's length, `k = min(rem, BODY_MAX)` (R66, R131). -/
def Transfer.fragmentLength (p : Params) (h : Transfer) : Nat := min h.rem p.bodyMax

/-- The next fragment's body, `payload[cursor .. cursor + k)` (R66, R131). -/
def Transfer.fragment (p : Params) (h : Transfer) : Bytes :=
  (h.payload.drop h.cursor).take (h.fragmentLength p)

/-- The transfer after its next fragment went out (R131). -/
def Transfer.advance (p : Params) (h : Transfer) : Transfer :=
  { h with cursor := h.cursor + h.fragmentLength p, nextSeq := h.nextSeq + 1 }

/-- The keep-alive (R59). -/
def noopFrame (p : Params) : Bytes := sentFrame p .noop 0 0 []

/-- PING (R60). -/
def pingFrame (p : Params) : Bytes := sentFrame p .ping 0 0 []

/-- PONG for a recorded PING of context `c` (R61). -/
def pongFrame (p : Params) (c : Byte) : Bytes := sentFrame p .pong 0 c []

/-- ACK, echoing sequence and context (R62). -/
def ackFrame (p : Params) (f : Frame) : Bytes := sentFrame p .ack f.seq f.ctx []

/-- REJECT, echoing sequence and context in the header and the type byte in the body (R63). -/
def rejectFrame (p : Params) (t : Byte) (f : Frame) : Bytes := sentFrame p .reject f.seq f.ctx [t]

/-- START of a transfer, announcing the type byte of its fragments and the bytes that remain (R64). -/
def startFrame (p : Params) (h : Transfer) : Bytes :=
  sentFrame p .start h.nextSeq h.ctx (startBody (withParity h.dtype p.txParity) (BitVec.ofNat 16 h.rem))

/-- END of a transfer (R65). -/
def endFrame (p : Params) (h : Transfer) : Bytes := sentFrame p .fin h.nextSeq h.ctx []

/-- The next fragment of a transfer (R66). -/
def dataFrame (p : Params) (h : Transfer) : Bytes :=
  encodeFrame p (withParity h.dtype p.txParity) h.nextSeq h.ctx (h.fragment p)

/-- The type byte of a frame of peer origin under a row (R52, R53). -/
def peerType (p : Params) (r : KindRow) : Byte := typeByte (kindOf r) p.rxParity

end Sys2Proof.Machine
end

