-- ==== Sys2Proof/Machine/Ops.lean ====
section
/-! DEFINITION. The named operations: the channels as memories, the registry, the three ports, `Send`, raising the two
faults, the reassembly store, the idle-flush and the end of a tick. -/

namespace Sys2Proof.Machine

/-! ### Channels (R30) -/

/-- The offset after the last byte of a channel. -/
def Memory.top (m : Memory) : Nat := (m.getLast?.map fun c => c.1 + 1).getD 0

/-- The byte at an offset, none where the channel holds none. -/
def Memory.read (m : Memory) (a : Nat) : Option Byte := (m.find? fun c => c.1 == a).map Prod.snd

/-- Bytes as cells at consecutive offsets from `a` up. -/
def cellsFrom (a : Nat) : Bytes → Memory
  | [] => []
  | b :: bs => (a, b) :: cellsFrom (a + 1) bs

/-- Bytes appended at the end of a channel, the first of them at the lowest offset (R31, R35). -/
def Memory.extend (m : Memory) (bs : Bytes) : Memory := m ++ cellsFrom m.top bs

/-- The last `n` bytes of a byte string, or all of it. -/
def lastBytes (n : Nat) (bs : Bytes) : Bytes := bs.drop (bs.length - n)

/-- "the most recent n bytes written to the channel (or fewer if unavailable)" (R32). -/
def Memory.latest (n : Nat) (m : Memory) : Bytes := lastBytes n (m.map Prod.snd)

/-! ### Field updates -/

/-- `STATE <- e`. -/
def State.setEngine (s : State) (e : EngineState) : State := { s with engine := e }

/-- `Q <- q`. -/
def State.setQ (s : State) (q : List Transfer) : State := { s with q := q }

/-- `RS <- rs`. -/
def State.setRs (s : State) (rs : List Entry) : State := { s with rs := rs }

/-- `LAST.valid <- 1`, `LAST.frame <- f` (R107). -/
def State.setLast (s : State) (f : Bytes) : State := { s with lastValid := true, lastFrame := f }

/-- Sets bits of `FAULT`; no bit is ever cleared but by reset (R19). -/
def State.setFault (s : State) (b : BitVec 2) : State := { s with fault := s.fault ||| b }

/-- The status the command answers with (R171). -/
def State.setStatus (s : State) (st : Status) : State := { s with status := some st }

/-- Uses up one answer of the outbound port. -/
def State.dropTxAnswer (s : State) : State := { s with txAns := s.txAns.tail }

/-- Appends bytes to `OUT`. -/
def State.extendOut (s : State) (f : Bytes) : State := { s with out := s.out.extend f }

/-- Appends bytes to `IN`: the peer's doing, not the engine's. -/
def State.extendIn (s : State) (bs : Bytes) : State := { s with inp := s.inp.extend bs }

/-- The row of `REG` for a kind (R18). -/
def State.regRow (s : State) (k : Kind) : Registration := s.reg.get ⟨k.toNat, k.isLt⟩

/-- `REG[k] <- r` (R158). -/
def State.setRegRow (s : State) (k : Kind) (r : Registration) : State :=
  { s with reg := s.reg.set k.toNat r k.isLt }

/-! ### Faults (60_exceptions.md) -/

/-- `raise TransportFailure` (R176): `FAULT.IOERR` is set and the command ends with `IO_FAIL`. There is no return from it:
the fault is over when the command ends (R181). -/
def State.raiseTransportFailure (s : State) : State := (s.setFault ioErrBit).setStatus .ioFail

/-- `raise ReassemblyOverflow` (R178): `FAULT.RS_OVF` is set, the bytes are dropped whole, the tick goes on. -/
def State.raiseReassemblyOverflow (s : State) : State := s.setFault rsOvfBit

/-! ### Ports -/

/-- Whether the outbound port's next answer is `ok` (R31). -/
def State.txReady (s : State) : Bool := s.txAns.headD true

/-- `Send(f)` (R107): one `TxAppend`; on `ok` the bytes are at the end of `OUT` and `LAST` holds the frame, on `fail`
`TransportFailure` is raised and nothing else changes. -/
def State.send (s : State) (f : Bytes) : Sent :=
  if s.txReady then .ok ((s.dropTxAnswer.extendOut f).setLast f)
  else .failed s.dropTxAnswer.raiseTransportFailure

/-- State changes written after a `Send`, made only when it went out (R180). -/
def Sent.andThen (r : Sent) (k : State → State) : Sent :=
  match r with
  | .ok s => .ok (k s)
  | .failed s => .failed s

/-- `RxReadLatest(PACKET_SIZE)` (R32): none where the read fails. It consumes nothing. -/
def State.rxRead (s : State) : Option Bytes :=
  match s.rxAns with
  | .fail => none
  | .latest => some (s.inp.latest s.cfg.packetSize)
  | .bytes raw => some (lastBytes s.cfg.packetSize raw)

/-- `CbDeliver(h, t, c, p)` (R33). -/
def State.deliver (s : State) (h : Handler) (e : Entry) : State :=
  { s with delivered := s.delivered ++ [⟨h, e.ty, e.ctx, e.buf, s.out.top⟩] }

/-! ### The reassembly store (44_reassembly_callbacks.md) -/

/-- Whether an entry has the key `(t, c)` (R17). -/
def Entry.hasKey (t c : Byte) (e : Entry) : Bool := e.ty == t && e.ctx == c

/-- The entries with the buffer of every entry of key `(t, c)` changed; there is at most one (R17). -/
def updateEntry (t c : Byte) (g : Bytes → Bytes) (rs : List Entry) : List Entry :=
  rs.map fun e => if e.hasKey t c then { e with buf := g e.buf } else e

/-- Whether a buffer of `n` bytes exceeds a capacity. -/
def exceeds (n : Nat) (cap : Option Nat) : Bool :=
  match cap with
  | none => false
  | some m => decide (m < n)

/-- `RsAppend((t, c), b)` (R150). -/
def State.rsAppend (s : State) (t c : Byte) (b : Bytes) : State :=
  match s.rs.find? (Entry.hasKey t c) with
  | some e =>
    if exceeds (e.buf.length + b.length) s.cfg.rsEntryBytes then s.raiseReassemblyOverflow
    else s.setRs (updateEntry t c (· ++ b) s.rs)
  | none =>
    if s.cfg.rsEntries = some s.rs.length ∨ exceeds b.length s.cfg.rsEntryBytes then s.raiseReassemblyOverflow
    else s.setRs (s.rs ++ [⟨t, c, b⟩])

/-- `RsSetMarker((t, c))` (R151): the entry is set to the marker, not appended to. -/
def State.rsSetMarker (s : State) (t c : Byte) : State :=
  match s.rs.find? (Entry.hasKey t c) with
  | some _ => s.setRs (updateEntry t c (fun _ => [s.cfg.marker]) s.rs)
  | none =>
    if s.cfg.rsEntries = some s.rs.length then s.raiseReassemblyOverflow
    else s.setRs (s.rs ++ [⟨t, c, [s.cfg.marker]⟩])

/-- The idle-flush over the entries still in `RS` (R155): each is delivered to its handler, answered with PONG, or
dropped (R157), then removed; a failed PONG stops the flush with its entry still in place (R180(c)). -/
def flushEntries : List Entry → State → Sent
  | [], s => .ok s
  | e :: es, s =>
    match s.regRow (kind e.ty) with
    | .user h => flushEntries es ((s.deliver h e).setRs es)
    | .autoPong =>
      match s.send (pongFrame s.cfg e.ctx) with
      | .ok s' => flushEntries es (s'.setRs es)
      | .failed s' => .failed s'
    | .unregistered => flushEntries es (s.setRs es)

/-- `IdleFlush()` (R155). -/
def State.idleFlush (s : State) : Sent := flushEntries s.rs s

/-! ### The end of a tick -/

/-- After the row of a tick: the flush if `STATE` is `Idle` now, and `OK` (R105, R154). -/
def State.endTick (s : State) : Sent :=
  (if s.engine = .idle then s.idleFlush else .ok s).andThen fun s' => s'.setStatus .ok

/-- The next state of a finished operation. -/
def Sent.toOutcome (r : Sent) : Host.Outcome State Fault Refusal :=
  match r with
  | .ok s => .next s
  | .failed s => .next s

/-- The next state of a tick whose row left `r`: a failed `Send` ends the tick at once, without a flush (R180(b)). -/
def finishTick (r : Sent) : Host.Outcome State Fault Refusal :=
  match r with
  | .ok s => s.endTick.toOutcome
  | .failed s => .next s

/-- `BadChecksum(F)` (R123): REJECT, whatever the kind. -/
def State.badChecksum (s : State) (t : Byte) (f : Frame) : Sent := s.send (rejectFrame s.cfg t f)

/-- A frame of peer origin in a tick: the checksum test, then its row, then the end of the tick (R105, R106). -/
def tickPeerFrame (r : KindRow) (f : Frame) (row : State → Sent) (s : State) : Host.Outcome State Fault Refusal :=
  finishTick (if frameValid (peerType s.cfg r) f then row s else s.badChecksum (peerType s.cfg r) f)

/-! ### Reset (70_reset_and_hazards.md) -/

/-- Reset of a running machine (R190): the six elements of the engine take their reset values; the parameters, the
channels, what was delivered and the environment's requests stay. -/
def State.applyReset (s : State) : State :=
  { s with
    engine := .idle
    q := []
    lastValid := false
    lastFrame := zeros s.cfg.packetSize
    rs := []
    reg := Registry.atReset
    fault := 0
    status := none }

/-- Of a command's effects outside the block, in the order they happen, the first so many: how many frames and which
deliveries. `pos` is the length of `OUT` so far, `n` the number of frames still to come; a delivery comes before the next
frame if `OUT` had no more than `pos` bytes when it was made. -/
def firstEffects (size : Nat) : Nat → Nat → Nat → List Delivery → Nat × List Delivery
  | 0, _, _, _ => (0, [])
  | _ + 1, _, 0, [] => (0, [])
  | k + 1, pos, n + 1, [] => ((firstEffects size k (pos + size) n []).1 + 1, [])
  | k + 1, pos, 0, d :: ds => (0, d :: (firstEffects size k pos 0 ds).2)
  | k + 1, pos, n + 1, d :: ds =>
    if d.outLen ≤ pos then
      ((firstEffects size k pos (n + 1) ds).1, d :: (firstEffects size k pos (n + 1) ds).2)
    else ((firstEffects size k (pos + size) n (d :: ds)).1 + 1, (firstEffects size k (pos + size) n (d :: ds)).2)

/-- Reset applied while a command that would have led from `s` to `t` is running, after the first `effects` of its effects
outside the block (R191): those stand, the command is abandoned, and the engine is at its reset values. -/
def State.abandon (s t : State) (effects : Nat) : State :=
  let frames := (t.out.length - s.out.length) / s.cfg.packetSize
  let kept := firstEffects s.cfg.packetSize effects s.out.top frames (t.delivered.drop s.delivered.length)
  ({ s with
    out := t.out.take (s.out.length + kept.1 * s.cfg.packetSize)
    delivered := s.delivered ++ kept.2 }).applyReset

/-- The outcome of a command in `s` that reset cuts short, from the outcome it would have had (R191). -/
def State.cutShort (s : State) (effects : Nat) (o : Host.Outcome State Fault Refusal) :
    Host.Outcome State Fault Refusal :=
  match o with
  | .next t => .next (s.abandon t effects)
  | .fault r => .fault r
  | .refused r => .refused r

end Sys2Proof.Machine
end

