-- ==== Sys2Proof/Machine/Rx.lean ====
section
/-! DEFINITION. The RX rows: one inbound frame processed by one tick (spec 42_tick.md R105 to R110, 43_transfer_fsm.md,
44_reassembly_callbacks.md R151). At most one row of the transition table fires, chosen by the `STATE` at the beginning
of the tick (R108). -/

namespace Sys2Proof.Machine

/-- An inbound NOOP: START in `Idle` with a waiting transfer (R121), the keep-alive with an empty queue (R122), nothing
otherwise (R134). -/
def noopRow (s : State) : Sent :=
  match s.q with
  | [] => s.send (noopFrame s.cfg)
  | h :: _ =>
    if s.engine = .idle then (s.send (startFrame s.cfg h)).andThen fun s' => s'.setEngine .awaitStartAck
    else .ok s

/-- An inbound PING or PONG: the marker is recorded and no frame is written (R151). -/
def markerRow (r : KindRow) (f : Frame) (s : State) : Sent := .ok (s.rsSetMarker (peerType s.cfg r) f.ctx)

/-- An inbound ACK in `Sending`: the next fragment while payload remains (R131), else END and the pop (R132). The queue
is never empty in `Sending` (R23(a)); an unreachable state that breaks this writes nothing (log 22). -/
def sendingAckRow (s : State) : Sent :=
  match s.q with
  | [] => .ok s
  | h :: rest =>
    if h.moreRemains then
      (s.send (dataFrame s.cfg h)).andThen fun s' => s'.setQ (h.advance s.cfg :: rest)
    else (s.send (endFrame s.cfg h)).andThen fun s' => (s'.setQ rest).setEngine .idle

/-- An inbound ACK by `STATE` (R130, R131, R132, R133, R135). -/
def ackRow (s : State) : Sent :=
  match s.engine with
  | .idle => s.send (noopFrame s.cfg)
  | .awaitStartAck => .ok (s.setEngine .sending)
  | .sending => sendingAckRow s
  | .receiving => .ok s

/-- An inbound REJECT: the last frame again, byte for byte, if one was sent since reset (R127). -/
def rejectRow (s : State) : Sent := if s.lastValid then s.send s.lastFrame else .ok s

/-- An inbound START: ACK, then `Receiving` (R128). -/
def startRow (f : Frame) (s : State) : Sent :=
  (s.send (ackFrame s.cfg f)).andThen fun s' => s'.setEngine .receiving

/-- An inbound END: ACK, then `Idle` (R129). -/
def endRow (f : Frame) (s : State) : Sent := (s.send (ackFrame s.cfg f)).andThen fun s' => s'.setEngine .idle

/-- An inbound data frame: in `Receiving` with `length ≥ 9`, ACK and then the append (R125); otherwise nothing (R126). -/
def dataRow (r : KindRow) (f : Frame) (s : State) : Sent :=
  if s.engine = .receiving ∧ 9 ≤ f.length then
    (s.send (ackFrame s.cfg f)).andThen fun s' => s'.rsAppend (peerType s'.cfg r) f.ctx f.body
  else .ok s

/-- RX_OWN_ORIGIN (R109): nothing, whatever the checksum; the tick still ends with the `Idle` test and the flush. -/
def execRxOwnOrigin (_k : Kind) (_f : Frame) (s : State) : Host.Outcome State Fault Refusal := finishTick (.ok s)

/-- RX_NOOP (R121, R122, R134). -/
def execRxNoop (f : Frame) (s : State) : Host.Outcome State Fault Refusal := tickPeerFrame .noop f noopRow s

/-- RX_PING (R151). -/
def execRxPing (f : Frame) (s : State) : Host.Outcome State Fault Refusal :=
  tickPeerFrame .ping f (markerRow .ping f) s

/-- RX_PONG (R151). -/
def execRxPong (f : Frame) (s : State) : Host.Outcome State Fault Refusal :=
  tickPeerFrame .pong f (markerRow .pong f) s

/-- RX_ACK (R130, R131, R132, R133, R135). -/
def execRxAck (f : Frame) (s : State) : Host.Outcome State Fault Refusal := tickPeerFrame .ack f ackRow s

/-- RX_REJECT (R127). -/
def execRxReject (f : Frame) (s : State) : Host.Outcome State Fault Refusal := tickPeerFrame .reject f rejectRow s

/-- RX_START (R128). -/
def execRxStart (f : Frame) (s : State) : Host.Outcome State Fault Refusal := tickPeerFrame .start f (startRow f) s

/-- RX_END (R129). -/
def execRxEnd (f : Frame) (s : State) : Host.Outcome State Fault Refusal := tickPeerFrame .fin f (endRow f) s

/-- RX_DATA_0E (R125, R126). -/
def execRxData0E (f : Frame) (s : State) : Host.Outcome State Fault Refusal :=
  tickPeerFrame .data7 f (dataRow .data7 f) s

/-- RX_DATA_10_1E (R125, R126). -/
def execRxData10 (x : BitVec 3) (f : Frame) (s : State) : Host.Outcome State Fault Refusal :=
  tickPeerFrame (.data8 x) f (dataRow (.data8 x) f) s

/-- RX_DATA_20_3E (R125, R126). -/
def execRxData20 (x : BitVec 4) (f : Frame) (s : State) : Host.Outcome State Fault Refusal :=
  tickPeerFrame (.data16 x) f (dataRow (.data16 x) f) s

/-- RX_DATA_40_7E (R125, R126). -/
def execRxData40 (x : BitVec 5) (f : Frame) (s : State) : Host.Outcome State Fault Refusal :=
  tickPeerFrame (.data32 x) f (dataRow (.data32 x) f) s

/-- RX_DATA_80_FE (R125, R126). -/
def execRxData80 (x : BitVec 6) (f : Frame) (s : State) : Host.Outcome State Fault Refusal :=
  tickPeerFrame (.data64 x) f (dataRow (.data64 x) f) s

end Sys2Proof.Machine
end

