-- ==== Sys2Proof/Machine/Command.lean ====
section
/-! DEFINITION. The host commands TICK, SUBMIT, REGISTER and PING (spec 42_tick.md R105, 41_queue_fragmenter.md R90,
44_reassembly_callbacks.md R158 and R159). -/

namespace Sys2Proof.Machine

/-- The tick on a frame of peer origin, by its row (R110): the dispatch is total. -/
def tickOnRow (r : KindRow) (f : Frame) (s : State) : Host.Outcome State Fault Refusal :=
  match r with
  | .noop => execRxNoop f s
  | .ping => execRxPing f s
  | .pong => execRxPong f s
  | .ack => execRxAck f s
  | .reject => execRxReject f s
  | .start => execRxStart f s
  | .fin => execRxEnd f s
  | .data7 => execRxData0E f s
  | .data8 x => execRxData10 x f s
  | .data16 x => execRxData20 x f s
  | .data32 x => execRxData40 x f s
  | .data64 x => execRxData80 x f s

/-- The tick on the decoded frame with type byte `t`: own-origin frames are set aside before the checksum test (R106). -/
def tickOnFrame (t : Byte) (f : Frame) (s : State) : Host.Outcome State Fault Refusal :=
  if origin t = s.cfg.txParity then execRxOwnOrigin (kind t) f s else tickOnRow (rowOfKind (kind t)) f s

/-- TICK (R105): one inbound read, then the frame in the chunk; a failed read ends the command at once with only
`FAULT.IOERR` changed (R176, R180(a)). -/
def execTick (s : State) : Host.Outcome State Fault Refusal :=
  match s.rxRead with
  | none => .next s.raiseTransportFailure
  | some raw => tickOnFrame (decodeFrame s.cfg raw).1 (decodeFrame s.cfg raw).2 s

/-- The transfer `submit` appends: bit 0 of the type is stored as 0 (R90). -/
def newTransfer (payload : Bytes) (ty ctx : Byte) : Transfer where
  payload := payload
  cursor := 0
  dtype := ty &&& 0xFE
  ctx := ctx
  nextSeq := 0

/-- SUBMIT (R90), its refusals in the order of R91; a refused `submit` changes nothing but the status. -/
def execSubmit (payload : Bytes) (ty ctx : Byte) (s : State) : Host.Outcome State Fault Refusal :=
  if (kind ty).toNat < 7 then .next (s.setStatus .refusedType)
  else if maxPayload < payload.length then .next (s.setStatus .refusedLen)
  else if s.cfg.queueDepth = some s.q.length then .next (s.setStatus .refusedFull)
  else .next ((s.setQ (s.q ++ [newTransfer payload ty ctx])).setStatus .ok)

/-- REGISTER (R158): bit 0 of the type is ignored; always `OK`. -/
def execRegister (ty : Byte) (handler : Handler) (s : State) : Host.Outcome State Fault Refusal :=
  .next ((s.setRegRow (kind ty) (.user handler)).setStatus .ok)

/-- PING (R159): one PING frame at once; no flush. -/
def execPing (s : State) : Host.Outcome State Fault Refusal :=
  ((s.send (pingFrame s.cfg)).andThen fun s' => s'.setStatus .ok).toOutcome

end Sys2Proof.Machine
end

