-- ==== Sys2Proof/Machine/Tx.lean ====
section
/-! DEFINITION. The TX rows: the transmission of one frame (spec 30_encoding.md R59 to R66), which is `Send` (R107). The
hardware sends a frame only inside a TICK or a PING, where the rules of 43_transfer_fsm.md and
44_reassembly_callbacks.md call `Send` with these frames; a TX row is that one call (log 10). -/

namespace Sys2Proof.Machine

/-- `Send` of the frame of a row, as an operation of its own. -/
def transmitRow (r : KindRow) (seq ctx : Byte) (body : Bytes) (s : State) : Host.Outcome State Fault Refusal :=
  (s.send (sentFrame s.cfg r seq ctx body)).toOutcome

/-- TX_NOOP (R59). -/
def execTxNoop (s : State) : Host.Outcome State Fault Refusal := (s.send (noopFrame s.cfg)).toOutcome

/-- TX_PING (R60). -/
def execTxPing (s : State) : Host.Outcome State Fault Refusal := (s.send (pingFrame s.cfg)).toOutcome

/-- TX_PONG (R61). -/
def execTxPong (ctx : Byte) (s : State) : Host.Outcome State Fault Refusal := (s.send (pongFrame s.cfg ctx)).toOutcome

/-- TX_ACK (R62). -/
def execTxAck (seq ctx : Byte) (s : State) : Host.Outcome State Fault Refusal := transmitRow .ack seq ctx [] s

/-- TX_REJECT (R63). -/
def execTxReject (seq ctx ty : Byte) (s : State) : Host.Outcome State Fault Refusal :=
  transmitRow .reject seq ctx [ty] s

/-- TX_START (R64). -/
def execTxStart (seq ctx dt : Byte) (rem : BitVec 16) (s : State) : Host.Outcome State Fault Refusal :=
  transmitRow .start seq ctx (startBody dt rem) s

/-- TX_END (R65). -/
def execTxEnd (seq ctx : Byte) (s : State) : Host.Outcome State Fault Refusal := transmitRow .fin seq ctx [] s

/-- TX_DATA_0F (R66). -/
def execTxData0F (seq ctx : Byte) (body : Bytes) (s : State) : Host.Outcome State Fault Refusal :=
  transmitRow .data7 seq ctx body s

/-- TX_DATA_11_1F (R66). -/
def execTxData11 (x : BitVec 3) (seq ctx : Byte) (body : Bytes) (s : State) : Host.Outcome State Fault Refusal :=
  transmitRow (.data8 x) seq ctx body s

/-- TX_DATA_21_3F (R66). -/
def execTxData21 (x : BitVec 4) (seq ctx : Byte) (body : Bytes) (s : State) : Host.Outcome State Fault Refusal :=
  transmitRow (.data16 x) seq ctx body s

/-- TX_DATA_41_7F (R66). -/
def execTxData41 (x : BitVec 5) (seq ctx : Byte) (body : Bytes) (s : State) : Host.Outcome State Fault Refusal :=
  transmitRow (.data32 x) seq ctx body s

/-- TX_DATA_81_FF (R66). -/
def execTxData81 (x : BitVec 6) (seq ctx : Byte) (body : Bytes) (s : State) : Host.Outcome State Fault Refusal :=
  transmitRow (.data64 x) seq ctx body s

end Sys2Proof.Machine
end

