-- ==== Sys2Proof/Machine/Dispatch.lean ====
section
/-! DEFINITION. The meaning of every instruction: one arm per constructor of `Instr`, each one call of a meaning. -/

namespace Sys2Proof.Machine

def exec (i : Instr) (s : State) : Host.Outcome State Fault Refusal :=
  match i with
  | .rxOwnOrigin k f => Sys2Proof.Machine.execRxOwnOrigin k f s
  | .rxNoop f => Sys2Proof.Machine.execRxNoop f s
  | .rxPing f => Sys2Proof.Machine.execRxPing f s
  | .rxPong f => Sys2Proof.Machine.execRxPong f s
  | .rxAck f => Sys2Proof.Machine.execRxAck f s
  | .rxReject f => Sys2Proof.Machine.execRxReject f s
  | .rxStart f => Sys2Proof.Machine.execRxStart f s
  | .rxEnd f => Sys2Proof.Machine.execRxEnd f s
  | .rxData0E f => Sys2Proof.Machine.execRxData0E f s
  | .rxData10 x f => Sys2Proof.Machine.execRxData10 x f s
  | .rxData20 x f => Sys2Proof.Machine.execRxData20 x f s
  | .rxData40 x f => Sys2Proof.Machine.execRxData40 x f s
  | .rxData80 x f => Sys2Proof.Machine.execRxData80 x f s
  | .txNoop => Sys2Proof.Machine.execTxNoop s
  | .txPing => Sys2Proof.Machine.execTxPing s
  | .txPong ctx => Sys2Proof.Machine.execTxPong ctx s
  | .txAck seq ctx => Sys2Proof.Machine.execTxAck seq ctx s
  | .txReject seq ctx ty => Sys2Proof.Machine.execTxReject seq ctx ty s
  | .txStart seq ctx dt rem => Sys2Proof.Machine.execTxStart seq ctx dt rem s
  | .txEnd seq ctx => Sys2Proof.Machine.execTxEnd seq ctx s
  | .txData0F seq ctx body => Sys2Proof.Machine.execTxData0F seq ctx body s
  | .txData11 x seq ctx body => Sys2Proof.Machine.execTxData11 x seq ctx body s
  | .txData21 x seq ctx body => Sys2Proof.Machine.execTxData21 x seq ctx body s
  | .txData41 x seq ctx body => Sys2Proof.Machine.execTxData41 x seq ctx body s
  | .txData81 x seq ctx body => Sys2Proof.Machine.execTxData81 x seq ctx body s
  | .tick => Sys2Proof.Machine.execTick s
  | .submit payload ty ctx => Sys2Proof.Machine.execSubmit payload ty ctx s
  | .register ty handler => Sys2Proof.Machine.execRegister ty handler s
  | .ping => Sys2Proof.Machine.execPing s

end Sys2Proof.Machine
end

