-- ==== Sys2Proof/Machine/Fetch.lean ====
section
/-! DEFINITION. What a step takes from the environment (log 7): the next request, and its decoding; and how one
instruction is put there (log 11). -/

namespace Sys2Proof.Machine

/-- What the next request asks for. -/
inductive Fetched where
  /-- no request is pending: between commands the block holds its state and does nothing (R188) -/
  | nothing
  /-- reset, in the state it is applied to -/
  | reset (s : State)
  /-- an instruction, in the state in which it runs -/
  | run (i : Instr) (s : State)
  /-- an instruction that reset cuts short after so many effects outside the block -/
  | cut (i : Instr) (s : State) (effects : Nat)
  deriving DecidableEq, Repr

/-- The state in which a command runs: its request taken, the peer's bytes on `IN`, the ports' answers in place. -/
def State.accept (s : State) (rest : List Request) (peer : Bytes) (rx : RxAnswer) (tx : List Bool) : State :=
  { (s.extendIn peer) with rxAns := rx, txAns := tx, pending := rest }

/-- The next request, decoded. -/
def State.fetch (s : State) : Fetched :=
  match s.pending with
  | [] => .nothing
  | .reset :: rest => .reset { s with pending := rest }
  | .command w peer rx tx :: rest => .run (decodeCommand w) (s.accept rest peer rx tx)
  | .abandoned w peer rx tx effects :: rest => .cut (decodeCommand w) (s.accept rest peer rx tx) effects

/-! ### Presenting one instruction (log 11) -/

/-- A host command in front of the pending requests. -/
def State.withCommand (s : State) (w : CmdWord) (peer : Bytes) : State :=
  { s with pending := .command w peer .latest [] :: s.pending }

/-- A TICK in front of the pending requests, during which the tail of `IN` is `raw`. -/
def State.withTick (s : State) (raw : Bytes) : State := s.withCommand ⟨0, [], 0, 0, ⟨0⟩⟩ raw

/-- A frame of the peer under a row, with a correct checksum. -/
def peerFrame (p : Params) (r : KindRow) (seq ctx : Byte) : Bytes := encodeFrame p (peerType p r) seq ctx []

/-- A frame with a wrong checksum. -/
def spoilt (f : Bytes) : Bytes := f.set 4 (f.getD 4 0 ^^^ 1)

/-- A transfer with nothing sent so far whose next frames carry the given sequence number. -/
def freshTransfer (seq ctx dtype : Byte) (payload : Bytes) : Transfer where
  payload := payload
  cursor := 0
  dtype := dtype
  ctx := ctx
  nextSeq := seq

/-- `Sending` with one transfer, and a TICK that reads an ACK: its next fragment or its END goes out (R131, R132). -/
def State.readyToContinue (s : State) (h : Transfer) : State :=
  ({ s with engine := .sending, q := [h], rs := [] } : State).withTick (peerFrame s.cfg .ack 0 0)

/-- `s` made ready to send the frame of a TX row: the engine where a rule sends that frame, nothing waiting in `RS`, and in
front of the pending requests the host command in which it does (R3). The other rows are not sent: nothing is changed. -/
def State.readyToSend (s : State) (i : Instr) : State :=
  match i with
  | .txNoop => ({ s with engine := .idle, rs := [] } : State).withTick (peerFrame s.cfg .ack 0 0)
  | .txPing => s.withCommand ⟨3, [], 0, 0, ⟨0⟩⟩ []
  | .txPong ctx =>
    (({ s with engine := .idle, rs := [] } : State).setRegRow 1 .autoPong).withTick (peerFrame s.cfg .ping 0 ctx)
  | .txAck seq ctx => s.withTick (peerFrame s.cfg .start seq ctx)
  | .txReject seq ctx ty => (s.setRs []).withTick (spoilt (encodeFrame s.cfg ty seq ctx []))
  | .txStart seq ctx dt rem =>
    ({ s with engine := .idle, q := [freshTransfer seq ctx (dt &&& 0xFE) (zeros rem.toNat)] } : State).withTick
      (peerFrame s.cfg .noop 0 0)
  | .txEnd seq ctx => s.readyToContinue (freshTransfer seq ctx 0x0E [])
  | .txData0F seq ctx body => s.readyToContinue (freshTransfer seq ctx 0x0E body)
  | .txData11 x seq ctx body => s.readyToContinue (freshTransfer seq ctx (typeByte (kindOf (.data8 x)) 0) body)
  | .txData21 x seq ctx body => s.readyToContinue (freshTransfer seq ctx (typeByte (kindOf (.data16 x)) 0) body)
  | .txData41 x seq ctx body => s.readyToContinue (freshTransfer seq ctx (typeByte (kindOf (.data32 x)) 0) body)
  | .txData81 x seq ctx body => s.readyToContinue (freshTransfer seq ctx (typeByte (kindOf (.data64 x)) 0) body)
  | .rxOwnOrigin _ _ | .rxNoop _ | .rxPing _ | .rxPong _ | .rxAck _ | .rxReject _ | .rxStart _ | .rxEnd _
  | .rxData0E _ | .rxData10 _ _ | .rxData20 _ _ | .rxData40 _ _ | .rxData80 _ _
  | .tick | .submit _ _ _ | .register _ _ | .ping => s

/-- `s` with a word as what the next step runs: a command word on the command port; an inbound chunk as the tail of `IN`
during a TICK; a transmitted frame by the command that sends it. Bytes that are no transmitted frame never leave the
engine; they are presented as what they then are, an inbound chunk. -/
def State.present (s : State) (w : Presented) : State :=
  match w with
  | .command c => s.withCommand c []
  | .inbound raw => s.withTick raw
  | .outbound f =>
    match decodeOutbound s.cfg f with
    | .ok i => s.readyToSend i
    | .error _ => s.withTick f

end Sys2Proof.Machine
end

