-- ==== Sys2Proof/Machine/Step.lean ====
section
/-! DEFINITION. One step of the machine: one request of the environment, one atomic step per host command (R206). -/

namespace Sys2Proof.Machine

/-- One step: the next request, decoded and run; with no request pending the state stays as it is (log 17). -/
def step (s : State) : Host.Outcome State Fault Refusal :=
  match s.fetch with
  | .nothing => .next s
  | .reset s' => .next s'.applyReset
  | .run i s' => exec i s'
  | .cut i s' effects => s'.cutShort effects (exec i s')

/-- `s` with a word of spec/opcode_table.json as what the next step runs (log 11): the host command, the TICK that reads
the inbound frame, or the host command in which the engine transmits the frame (R3). -/
def State.withFetchWord (s : State) (nbits w : Nat) : State := s.present (tableWord s.cfg nbits w)

end Sys2Proof.Machine
end

