-- ==== Sys2Proof/Safety.lean ====
section
/-! DEFINITION. What a good state is (the invariants of spec 10_state.md R23 and the bounds of R13 to R17), and the words in
which statements describe what an operation leaves. -/

namespace Sys2Proof.Machine

/-! ### Good states -/

/-- A transfer as R15 bounds it. -/
structure Transfer.good (h : Transfer) : Prop where
  cursor_le : h.cursor ≤ h.payload.length
  payload_le : h.payload.length ≤ maxPayload
  even : origin h.dtype = 0
  dataKind : 7 ≤ (kind h.dtype).toNat

/-- A transfer of which nothing has been sent (R23(b)). -/
def Transfer.unsent (h : Transfer) : Prop := h.cursor = 0 ∧ h.nextSeq = 0

/-- A key a reassembly entry can have (R23(d)): peer origin, kind PING, PONG or data. -/
def Entry.goodKey (p : Params) (e : Entry) : Prop :=
  origin e.ty = p.rxParity ∧ ((kind e.ty).toNat = 1 ∨ (kind e.ty).toNat = 2 ∨ 7 ≤ (kind e.ty).toNat)

/-- A frame this engine can have sent (R23(f)): `PACKET_SIZE` bytes, own origin bit, length byte 8 to `PACKET_SIZE`, and
a correct checksum. -/
structure SentFrame (p : Params) (f : Bytes) : Prop where
  size : f.length = p.packetSize
  ownOrigin : origin (f.getD 0 0) = p.txParity
  length_ge : 8 ≤ (f.getD 3 0).toNat
  length_le : (f.getD 3 0).toNat ≤ p.packetSize
  checked : f.getD 4 0 = checksum f (f.getD 3 0).toNat

/-- The REGISTER a request presents carries a token of the type `HANDLER` (R7, R68). -/
def Request.typed (p : Params) : Request → Bool
  | .command w _ _ _ => w.typed p
  | .reset => true
  | .abandoned w _ _ _ _ => w.typed p

/-- The invariants of R23, with the bounds R14 to R17 give the state elements. -/
structure State.Inv (s : State) : Prop where
  legal : s.cfg.legal
  outLog : s.out.wf
  inLog : s.inp.wf
  /-- R23(a) -/
  busyHasHead : (s.engine = .awaitStartAck ∨ s.engine = .sending) → s.q ≠ []
  transfers : ∀ h ∈ s.q, h.good
  /-- R23(b) -/
  waiting : ∀ h ∈ s.q.tail, h.unsent
  queueFits : exceeds s.q.length s.cfg.queueDepth = false
  /-- R23(c) -/
  idleEmpty : s.engine = .idle → s.fault &&& ioErrBit = 0 → s.rs = []
  /-- R23(d) -/
  keysDistinct : (s.rs.map fun e => (e.ty, e.ctx)).Nodup
  keysGood : ∀ e ∈ s.rs, e.goodKey s.cfg
  storeFits : exceeds s.rs.length s.cfg.rsEntries = false
  buffersFit : ∀ e ∈ s.rs, exceeds e.buf.length s.cfg.rsEntryBytes = false
  lastSize : s.lastFrame.length = s.cfg.packetSize
  /-- R23(f) -/
  lastGood : s.lastValid = true → SentFrame s.cfg s.lastFrame
  /-- R16: `LAST.frame` is what stands at the end of `OUT` -/
  lastIsTail : s.lastValid = true → s.out.latest s.cfg.packetSize = s.lastFrame
  /-- R18: the registry holds tokens of the type `HANDLER` -/
  registryTyped : ∀ k h, s.regRow k = .user h → h.ofType s.cfg = true
  /-- R33: the host is handed tokens of the type `HANDLER` -/
  deliveriesTyped : ∀ d ∈ s.delivered, d.handler.ofType s.cfg = true
  /-- R68: the host registers tokens of the type `HANDLER` -/
  requestsTyped : ∀ r ∈ s.pending, r.typed s.cfg = true

/-- A step answers a next state. -/
def Runs (o : Host.Outcome State Fault Refusal) : Prop := ∃ t, o = .next t

/-! ### What an operation leaves -/

/-- The transport accepts every append of the command. -/
def State.linkUp (s : State) : Prop := ∀ b ∈ s.txAns, b = true

/-- `s` after a successful transmission of `f`: the bytes are at the end of `OUT`, `LAST` holds `f`, one answer of the
port is used up, nothing else has changed (R31, R107). -/
def State.afterSend (s : State) (f : Bytes) : State :=
  { s with out := s.out.extend f, lastValid := true, lastFrame := f, txAns := s.txAns.tail }

/-- `s` after a transmission that failed: `FAULT.IOERR` is set and the status is `IO_FAIL`, one answer of the port is used
up, nothing else has changed (R176, R180(b)). -/
def State.afterFailedSend (s : State) : State :=
  { s with fault := s.fault ||| 1, status := some .ioFail, txAns := s.txAns.tail }

/-- A tick that ends in `s` has nothing to flush. -/
def State.quiet (s : State) : Prop := s.engine ≠ .idle ∨ s.rs = []

/-- The outcome of a tick whose row leaves `x`: the tick ends on `x` (the flush if it is `Idle`), and where there is
nothing to flush the next state is `x` with status `OK`. -/
def TickLeaves (o : Host.Outcome State Fault Refusal) (x : State) : Prop :=
  o = finishTick (.ok x) ∧ (x.quiet → o = .next { x with status := some .ok })

/-- The PONG frames a flush of the entries writes, in order (R156). -/
def State.pongFrames (s : State) (es : List Entry) : List Bytes :=
  es.filterMap fun e => if s.regRow (kind e.ty) = .autoPong then some (pongFrame s.cfg e.ctx) else none

/-- What a delivery hands the host (R33). -/
def Delivery.call (d : Delivery) : Handler × Byte × Byte × Bytes := (d.handler, d.ty, d.ctx, d.payload)

/-- The `CbDeliver` calls a flush of the entries makes, in order (R155). -/
def State.handedOver (s : State) (es : List Entry) : List (Handler × Byte × Byte × Bytes) :=
  es.filterMap fun e =>
    match s.regRow (kind e.ty) with
    | .user h => some (h, e.ty, e.ctx, e.buf)
    | _ => none

/-- The data rows. -/
def isDataRow : KindRow → Bool
  | .data7 | .data8 _ | .data16 _ | .data32 _ | .data64 _ => true
  | _ => false

/-- The transmitted data instruction of a data row. -/
def txDataInstr (r : KindRow) (seq ctx : Byte) (body : Bytes) : Instr :=
  match r with
  | .data8 x => .txData11 x seq ctx body
  | .data16 x => .txData21 x seq ctx body
  | .data32 x => .txData41 x seq ctx body
  | .data64 x => .txData81 x seq ctx body
  | _ => .txData0F seq ctx body

/-! ### Exchanging handler tokens (R7: opaque to the engine) -/

/-- A row of the registry with its token exchanged. -/
def Registration.renameHandlers (g : Handler → Handler) : Registration → Registration
  | .user h => .user (g h)
  | .autoPong => .autoPong
  | .unregistered => .unregistered

/-- The state with the tokens of the registry and of the deliveries exchanged. -/
def State.renameHandlers (g : Handler → Handler) (s : State) : State :=
  { s with
    reg := s.reg.map (Registration.renameHandlers g)
    delivered := s.delivered.map fun d => { d with handler := g d.handler } }

/-! ### Runs of two ends -/

/-- `n` ticks that each read the same ACK (R139): the frames sent, oldest first, and the state reached; none where a tick
does not answer a next state. -/
def runAcks (f : Frame) : Nat → State → Option (List Bytes × State)
  | 0, s => some ([], s)
  | n + 1, s =>
    match exec (.rxAck f) s with
    | .next t => (runAcks f n t).map fun r => (t.lastFrame :: r.1, r.2)
    | _ => none

/-- Ticks that read the given chunks one after the other (R140). -/
def runChunks : List Bytes → State → Option State
  | [], s => some s
  | raw :: raws, s =>
    match exec (decodeInbound s.cfg raw) s with
    | .next t => runChunks raws t
    | _ => none

/-- `ceil(L / BODY_MAX)`, the number of fragments of a payload of `L` bytes (R94). -/
def fragmentCount (p : Params) (len : Nat) : Nat := (len + p.bodyMax - 1) / p.bodyMax

end Sys2Proof.Machine
end

