-- ==== Sys2Proof/Certificates/Slice0/Obligations.lean ====
section
/-! DEFINITION. The statements for the provers, from the numbered rules of spec/. Parameters are those of the state the
statement is about, so each holds for every legal configuration. -/

open Sys2Proof Sys2Proof.Machine

/-! ### The codec -/

/-- R75: the checksum is the exclusive-or of every byte below the length but the one at offset 4. -/
def Obligations.ChecksumFoldsAllButOffsetFour : Prop :=
  ∀ (f : Bytes) (n : Nat), 8 ≤ n → n ≤ f.length →
    checksum f n = ((List.range n).filter fun i => i ≠ 4).foldl (fun c i => c ^^^ f.getD i 0) 0

/-- R76, R77: header, body cut to `BODY_MAX`, checksum, zero padding, exactly `PACKET_SIZE` bytes.
(Rests on D14 of 92_eei_decisions.md, the spec's own choice.) -/
def Obligations.EncodeBuildsTheFrame : Prop :=
  ∀ (p : Params) (t s c : Byte) (body : Bytes), p.legal →
    let b := body.take p.bodyMax
    let n := 8 + b.length
    let f := encodeFrame p t s c body
    f.length = p.packetSize ∧ (f.getD 3 0).toNat = n ∧
      f = [t, s, c, BitVec.ofNat 8 n, checksum f n, 0, 0, 0] ++ b ++ zeros (p.packetSize - n)

/-- R81: decoding an encoded frame gives it back, the body cut to `BODY_MAX`, valid and not synthetic.
(Rests on D14 of 92_eei_decisions.md, the spec's own choice. R81 marks the law as derived from R76 and R78.) -/
def Obligations.DecodeFrameInvertsEncode : Prop :=
  ∀ (p : Params) (t s c : Byte) (body : Bytes), p.legal →
    let d := decodeFrame p (encodeFrame p t s c body)
    d.1 = t ∧ d.2.seq = s ∧ d.2.ctx = c ∧ d.2.body = body.take p.bodyMax ∧
      d.2.length = 8 + (body.take p.bodyMax).length ∧ d.2.synthetic = false ∧ frameValid d.1 d.2 = true

/-- R79: a short or malformed chunk decodes to the synthetic NOOP, which is processed as a real NOOP of the peer.
(Rests on D13 of 92_eei_decisions.md, the spec's own choice.) -/
def Obligations.MalformedChunkIsSyntheticNoop : Prop :=
  ∀ (p : Params) (raw : Bytes),
    (raw.length < 8 ∨ (raw.getD 3 0).toNat < 8 ∨ raw.length < (raw.getD 3 0).toNat) →
    let d := decodeFrame p raw
    d.1 = typeByte 0 p.rxParity ∧ d.2.seq = 0 ∧ d.2.ctx = 0 ∧ d.2.length = 8 ∧ d.2.body = [] ∧
      d.2.synthetic = true ∧ frameValid d.1 d.2 = true ∧ decodeInbound p raw = .rxNoop d.2 ∧
      ∀ (s : State) (f : Frame), s.cfg = p → frameValid (typeByte 0 p.rxParity) f = true →
        exec (.rxNoop d.2) s = exec (.rxNoop f) s

/-- R78: the fields of a real frame, and its validity by the recomputed checksum.
(For the chunks that R79 replaces see MalformedChunkIsSyntheticNoop.) -/
def Obligations.RealFrameFields : Prop :=
  ∀ (p : Params) (raw : Bytes),
    8 ≤ raw.length → 8 ≤ (raw.getD 3 0).toNat → (raw.getD 3 0).toNat ≤ raw.length →
    let n := (raw.getD 3 0).toNat
    let d := decodeFrame p raw
    d.1 = raw.getD 0 0 ∧ d.2.seq = raw.getD 1 0 ∧ d.2.ctx = raw.getD 2 0 ∧ d.2.length = n ∧
      d.2.cks = raw.getD 4 0 ∧ d.2.body = (raw.take n).drop 8 ∧ d.2.synthetic = false ∧
      frameValid d.1 d.2 = (checksum raw n == raw.getD 4 0)

/-- R82(a): a change of one covered byte, or of the checksum byte, makes a valid frame invalid. (The length byte is left
out: R82(b) says that a change of it also changes which bytes are covered.)
(R82 marks the law as a consequence derived from R75.) -/
def Obligations.SingleByteCorruptionIsDetected : Prop :=
  ∀ (p : Params) (raw : Bytes) (i : Nat) (b : Byte),
    8 ≤ (raw.getD 3 0).toNat → (raw.getD 3 0).toNat ≤ raw.length →
    i < (raw.getD 3 0).toNat → i ≠ 3 → b ≠ raw.getD i 0 →
    frameValid (decodeFrame p raw).1 (decodeFrame p raw).2 = true →
    frameValid (decodeFrame p (raw.set i b)).1 (decodeFrame p (raw.set i b)).2 = false

/-- R55, R82(e): bytes at offsets `length` and above are invisible.
(R55 and R82(e) mark the law as derived from R75 and R78.) -/
def Obligations.PaddingIsInvisible : Prop :=
  ∀ (p : Params) (raw : Bytes) (i : Nat) (b : Byte),
    (raw.getD 3 0).toNat ≤ i → 8 ≤ i → decodeFrame p (raw.set i b) = decodeFrame p raw

/-! ### Encodings -/

/-- R72: the classification of an inbound type byte, complete over all 256 values, and the exchange of the roles of bit 0
under the other parity.
(Rests on D4 of 92_eei_decisions.md, the spec's own choice.) -/
def Obligations.TypeByteClassification : Prop :=
  ∀ (p q : Params) (t : Byte) (f : Frame), p.txParity = 1 → q.txParity = 0 →
    (t &&& 0x01 = 0x01 → classify p t f = .rxOwnOrigin (t.extractLsb' 1 7) f) ∧
    (t = 0x00 → classify p t f = .rxNoop f) ∧ (t = 0x02 → classify p t f = .rxPing f) ∧
    (t = 0x04 → classify p t f = .rxPong f) ∧ (t = 0x06 → classify p t f = .rxAck f) ∧
    (t = 0x08 → classify p t f = .rxReject f) ∧ (t = 0x0A → classify p t f = .rxStart f) ∧
    (t = 0x0C → classify p t f = .rxEnd f) ∧ (t = 0x0E → classify p t f = .rxData0E f) ∧
    (t &&& 0xF1 = 0x10 → classify p t f = .rxData10 (t.extractLsb' 1 3) f) ∧
    (t &&& 0xE1 = 0x20 → classify p t f = .rxData20 (t.extractLsb' 1 4) f) ∧
    (t &&& 0xC1 = 0x40 → classify p t f = .rxData40 (t.extractLsb' 1 5) f) ∧
    (t &&& 0x81 = 0x80 → classify p t f = .rxData80 (t.extractLsb' 1 6) f) ∧
    (t &&& 0x01 = 0x01 ∨ t ∈ [0x00, 0x02, 0x04, 0x06, 0x08, 0x0A, 0x0C, 0x0E] ∨ t &&& 0xF1 = 0x10 ∨
      t &&& 0xE1 = 0x20 ∨ t &&& 0xC1 = 0x40 ∨ t &&& 0x81 = 0x80) ∧
    classify q (t ^^^ 0x01) f = classify p t f

/-- R68: the four command codes and the operands each command reads.
(Rests on D28 of 92_eei_decisions.md, the spec's own choice.) -/
def Obligations.CommandCodes : Prop :=
  ∀ (payload : Bytes) (ty ctx : Byte) (h : Handler),
    decodeCommand ⟨0, payload, ty, ctx, h⟩ = .tick ∧
      decodeCommand ⟨1, payload, ty, ctx, h⟩ = .submit payload ty ctx ∧
      decodeCommand ⟨2, payload, ty, ctx, h⟩ = .register ty h ∧
      decodeCommand ⟨3, payload, ty, ctx, h⟩ = .ping

/-- R50, R58 to R66, R68: every well-formed instruction decodes from its encoding.
(Rests on D6, D8, D9, D10, D11, D14, D20, D21 and D28 of 92_eei_decisions.md, the spec's own choice. The operands of
the TX rows are the model's reading of R59 to R66 (log 10); those of the command word are log 7.) -/
def Obligations.DecodeInvertsEncode : Prop :=
  ∀ (p : Params) (i : Instr), p.legal → i.wellFormed p = true → decode p (encode p i) = .ok i

/-- Whatever the decoder reads is well formed: every chunk a read can return, every transmitted frame, every command, a
REGISTER if its handler is a token of the type `HANDLER`.
(Rests on D28 of 92_eei_decisions.md, the spec's own choice. WellFormed is the model's own condition, transmitted
frames are read by the model's own decoder (log 10), and HANDLER by the number of its tokens is log 6.) -/
def Obligations.DecodedIsWellFormed : Prop :=
  ∀ p : Params, p.legal →
    (∀ raw : Bytes, raw.length ≤ p.packetSize → (decodeInbound p raw).wellFormed p = true) ∧
      (∀ (f : Bytes) (i : Instr), decodeOutbound p f = .ok i → i.wellFormed p = true) ∧
      ∀ w : CmdWord, (w.code = 2 → w.handler.ofType p = true) → (decodeCommand w).wellFormed p = true

/-- Words written out from R50, R59 to R66 and R70 (`PACKET_SIZE = 12`, `TX_PARITY = 1`) decode to what they stand for.
(Rests on D6 and D9 of 92_eei_decisions.md, the spec's own choice. The reading of transmitted frames is the model's
(log 10).) -/
def Obligations.WrittenWordsDecode : Prop :=
  let p : Params := ⟨12, 1, 0, none, none, none, none⟩
  decodeInbound p [0x10, 0x00, 0x07, 0x0C, 0x39, 0, 0, 0, 0xDE, 0xAD, 0xBE, 0xEF] =
      .rxData10 0 ⟨0x00, 0x07, 0x39, 0, 0, 0, [0xDE, 0xAD, 0xBE, 0xEF], false⟩ ∧
    decodeInbound p [0x0C, 0x02, 0x07, 0x08, 0x01, 0, 0, 0, 0, 0, 0, 0] =
      .rxEnd ⟨0x02, 0x07, 0x01, 0, 0, 0, [], false⟩ ∧
    decodeInbound p [0x01, 0, 0, 0x08, 0x09, 0, 0, 0, 0, 0, 0, 0] =
      .rxOwnOrigin 0 ⟨0, 0, 0x09, 0, 0, 0, [], false⟩ ∧
    decodeOutbound p [0x0B, 0x00, 0x07, 0x0B, 0x13, 0, 0, 0, 0x11, 0x00, 0x05, 0x00] =
      .ok (.txStart 0x00 0x07 0x11 5) ∧
    decodeOutbound p [0x09, 0x05, 0x09, 0x09, 0x1C, 0, 0, 0, 0x10, 0, 0, 0] = .ok (.txReject 0x05 0x09 0x10)

/-! ### Reset -/

/-- R24: the six elements after reset.
(Rests on D23 and D34 of 92_eei_decisions.md, the spec's own choice.) -/
def Obligations.ResetValues : Prop :=
  State.reset.engine = .idle ∧ State.reset.q = [] ∧ State.reset.lastValid = false ∧ State.reset.rs = [] ∧
    State.reset.regRow 1 = .autoPong ∧ (∀ k : Kind, k ≠ 1 → State.reset.regRow k = .unregistered) ∧
    State.reset.fault = 0

/-- R190: reset puts every state element at its reset value and touches neither the parameters nor the channels.
(Rests on D23 and D34 of 92_eei_decisions.md, the spec's own choice.) -/
def Obligations.ResetRequestResetsTheEngine : Prop :=
  ∀ (s : State) (rest : List Request), s.pending = .reset :: rest →
    ∃ t, step s = .next t ∧ t.engine = .idle ∧ t.q = [] ∧ t.lastValid = false ∧ t.rs = [] ∧
      t.regRow 1 = .autoPong ∧ (∀ k : Kind, k ≠ 1 → t.regRow k = .unregistered) ∧ t.fault = 0 ∧
      t.cfg = s.cfg ∧ t.out = s.out ∧ t.inp = s.inp ∧ t.delivered = s.delivered ∧ t.pending = rest

/-- R191, R41(b): reset during a command abandons it. Its effects outside the block are the frames it appends and the
callbacks it delivers, in time order; the first `k` of them stand, or all if they are fewer. Of a command that appends
`frames` frames, `n` frames and `m` deliveries stand; each delivery that stands was made when `OUT` held no more than those
`n` frames, each that does not when it held all of them. The peer's bytes and the parameters stay; the engine is at its
reset values.
(Rests on D34 of 92_eei_decisions.md, the spec's own choice. That they stand as a prefix of the command's effects in
time order is the model's inference (log 14); the length of OUT at a delivery is the model's record (log 19).) -/
def Obligations.ResetDuringCommandAbandonsIt : Prop :=
  ∀ (s t0 : State) (w : CmdWord) (peer : Bytes) (rx : RxAnswer) (tx : List Bool) (k : Nat) (rest : List Request),
    s.pending = .abandoned w peer rx tx k :: rest → s.cfg.legal → s.lastFrame.length = s.cfg.packetSize →
    exec (decodeCommand w) { s with inp := s.inp.extend peer, rxAns := rx, txAns := tx, pending := rest } = .next t0 →
    ∃ t frames n m, step s = .next t ∧ t.engine = .idle ∧ t.q = [] ∧ t.lastValid = false ∧ t.rs = [] ∧
      t.regRow 1 = .autoPong ∧ (∀ kd : Kind, kd ≠ 1 → t.regRow kd = .unregistered) ∧ t.fault = 0 ∧
      t.cfg = s.cfg ∧ t.inp = s.inp.extend peer ∧ t.pending = rest ∧
      t0.out.length = s.out.length + frames * s.cfg.packetSize ∧ n ≤ frames ∧
      t.out = t0.out.take (s.out.length + n * s.cfg.packetSize) ∧
      s.delivered.length + m ≤ t0.delivered.length ∧ t.delivered = t0.delivered.take (s.delivered.length + m) ∧
      n + m = min k (frames + (t0.delivered.length - s.delivered.length)) ∧
      (∀ d ∈ t.delivered.drop s.delivered.length, d.outLen ≤ s.out.top + n * s.cfg.packetSize) ∧
      ∀ d ∈ t0.delivered.drop (s.delivered.length + m), s.out.top + n * s.cfg.packetSize ≤ d.outLen

/-- The invariants hold after reset. (`PACKET_SIZE = 96` and the unbounded capacities of the reset machine are the model's
choice, logs 2 and 3.)
(Rests on D23 and D34 of 92_eei_decisions.md, the spec's own choice. It rests on the model's choices for State.reset
(logs 2, 3, 5, 6 and 8).) -/
def Obligations.ResetIsGood : Prop := State.reset.Inv

/-- R23: the invariants are kept by every step from every state that has them.
(Rests on D24 and D34 of 92_eei_decisions.md, the spec's own choice. R23 marks the invariants as derived. The
invariants on tokens are the model's form of the parameter HANDLER (log 6), and that the host presents such tokens is
an invariant on the requests (log 7).) -/
def Obligations.StepKeepsInvariants : Prop := ∀ s t : State, s.Inv → step s = .next t → t.Inv

/-- R13, R171, R25: the codes of `STATE` and of the statuses, and what the host reads.
(Rests on D5 and D28 of 92_eei_decisions.md, the spec's own choice. R25 marks the access table as derived.) -/
def Obligations.HostReadCodes : Prop :=
  (∀ s : State, s.hostRead.1 = s.engine.code ∧ s.hostRead.2.1 = s.q.length ∧ s.hostRead.2.2 = s.fault) ∧
    [EngineState.idle, .awaitStartAck, .sending, .receiving].map EngineState.code = [0, 1, 2, 3] ∧
    [Status.ok, .ioFail, .refusedType, .refusedLen, .refusedFull].map Status.code = [0, 1, 2, 3, 4]

/-! ### Step and tick -/

/-- R3, R34, R190, R191: a step runs the next request and nothing else: the decoded instruction of a host command, reset, a
command that reset cuts short, or, with none pending, nothing. These are all the requests there are.
(Rests on D28 and D34 of 92_eei_decisions.md, the spec's own choice. The list of requests is the model's (log 7), a
command cut short is log 14, and a step with nothing pending is log 17.) -/
def Obligations.StepRunsNextRequest : Prop :=
  (∀ (s : State) (w : CmdWord) (peer : Bytes) (rx : RxAnswer) (tx : List Bool) (rest : List Request),
      s.pending = .command w peer rx tx :: rest →
      step s = exec (decodeCommand w)
        { s with inp := s.inp.extend peer, rxAns := rx, txAns := tx, pending := rest }) ∧
    (∀ (s : State) (rest : List Request), s.pending = .reset :: rest →
      step s = .next ({ s with pending := rest } : State).applyReset) ∧
    (∀ (s : State) (w : CmdWord) (peer : Bytes) (rx : RxAnswer) (tx : List Bool) (k : Nat) (rest : List Request),
      s.pending = .abandoned w peer rx tx k :: rest →
      let x : State := { s with inp := s.inp.extend peer, rxAns := rx, txAns := tx, pending := rest }
      step s = x.cutShort k (exec (decodeCommand w) x)) ∧
    (∀ s : State, s.pending = [] → step s = .next s) ∧
    (∀ s : State, s.pending = [] ∨ (∃ w peer rx tx rest, s.pending = .command w peer rx tx :: rest) ∨
      (∃ rest, s.pending = .reset :: rest) ∨ ∃ w peer rx tx k rest, s.pending = .abandoned w peer rx tx k :: rest) ∧
    ∀ w : CmdWord, decodeCommand w = .tick ∨ (∃ payload ty ctx, decodeCommand w = .submit payload ty ctx) ∨
      (∃ ty h, decodeCommand w = .register ty h) ∨ decodeCommand w = .ping

/-- R3, R53, R59 to R66: a TX row is what the engine does inside a host command. For each there is a state of the engine
and a command that sends its frame, and the step that runs the row's word runs that: `OUT` and `LAST` are as the row alone
leaves them. (A REJECT echoes the type byte of a frame of the peer, so it is asked of those.)
(Rests on D6, D8, D9, D10, D11, D20 and D21 of 92_eei_decisions.md, the spec's own choice. A TX row is the one Send of
its frame (log 10); the state made ready for it is how the model presents the row's word (log 11).) -/
def Obligations.TransmittedRowsRunInCommands : Prop :=
  ∀ (s : State) (i : Instr) (f : Bytes), s.cfg.legal → i.wellFormed s.cfg = true → encode s.cfg i = .outbound f →
    (∀ seq ctx ty, i = .txReject seq ctx ty → origin ty = s.cfg.rxParity) →
    (∃ w peer, (s.readyToSend i).pending = .command w peer .latest [] :: s.pending) ∧
      ∃ t u, step (s.readyToSend i) = .next t ∧ exec i { s with txAns := [] } = .next u ∧
        t.out = s.out.extend f ∧ t.lastFrame = f ∧ t.lastValid = true ∧ t.status = some .ok ∧
        u.out = t.out ∧ u.lastFrame = f ∧ u.lastValid = true

/-- R105: TICK runs the instruction decoded from the chunk it read.
(Rests on D15 of 92_eei_decisions.md, the spec's own choice. That an RX row is the whole tick is the model's reading
(log 12).) -/
def Obligations.TickRunsDecodedFrame : Prop :=
  ∀ (s : State) (raw : Bytes), s.rxRead = some raw → exec .tick s = exec (decodeInbound s.cfg raw) s

/-- R32, R35: a step that takes a TICK reads, byte for byte, the frame the peer appended last.
(Rests on D29 of 92_eei_decisions.md, the spec's own choice. The channel as a memory and the pending requests are the
model's (logs 7, 8 and 9).) -/
def Obligations.TickReadsTheLatestFrame : Prop :=
  ∀ (s : State) (w : CmdWord) (peer : Bytes) (tx : List Bool) (rest : List Request),
    s.pending = .command w peer .latest tx :: rest → w.code = 0 → peer.length = s.cfg.packetSize →
    step s = exec (decodeInbound s.cfg peer)
      { s with inp := s.inp.extend peer, rxAns := .latest, txAns := tx, pending := rest }

/-- R112, R154: a tick whose transport calls succeed completes with `OK`, and leaves the store empty if it ends in
`Idle`.
(That transport calls answer is the premise linkUp (log 16).) -/
def Obligations.TickCompletes : Prop :=
  ∀ (s : State) (raw : Bytes), s.rxRead = some raw → s.linkUp →
    ∃ t, exec .tick s = .next t ∧ t.status = some .ok ∧ (t.engine = .idle → t.rs = [])

/-- R176, R180(a): a failed read changes `FAULT.IOERR` and the status, nothing else.
(Rests on D24 of 92_eei_decisions.md, the spec's own choice.) -/
def Obligations.FailedReadChangesOnlyIoErr : Prop :=
  ∀ s : State, s.rxAns = .fail →
    exec .tick s = .next { s with fault := s.fault ||| 1, status := some .ioFail }

/-- R170: nothing stops the engine. Every instruction and every step answers a next state in every state.
(That transport calls and handlers return is log 16.) -/
def Obligations.NothingStopsTheEngine : Prop :=
  (∀ (i : Instr) (s : State), Runs (exec i s)) ∧ ∀ s : State, Runs (step s)

/-! ### Channels and frames of the state -/

/-- R31: appending to a channel in canonical form: earlier offsets read as before, the bytes follow in order, nothing is
beyond them.
(Rests on D29 of 92_eei_decisions.md, the spec's own choice. The channel as a memory is the model's (log 8).) -/
def Obligations.AppendedBytesReadBack : Prop :=
  ∀ (m : Memory) (bs : Bytes) (a : Nat), m.wf →
    (m.extend bs).read a = if a < m.length then m.read a else bs[a - m.length]?

/-- R31, R37, R38: every instruction leaves every byte already on `OUT` as it is and appends whole frames.
(R31 and R37 mark the whole frames as derived; OUT as a memory is the model's (log 8).) -/
def Obligations.OutGrowsByWholeFrames : Prop :=
  ∀ (i : Instr) (s t : State), s.cfg.legal → s.lastFrame.length = s.cfg.packetSize → exec i s = .next t →
    (∃ fs : List Bytes, (∀ f ∈ fs, f.length = s.cfg.packetSize) ∧ t.out = s.out.extend fs.flatten) ∧
      ∀ a, a < s.out.top → t.out.read a = s.out.read a

/-- R7, R22, R32: no instruction changes the parameters, `IN`, the inbound port's answer or the pending requests.
(Keeping these in State is the model's (logs 1, 7 and 9).) -/
def Obligations.ExecKeepsInputs : Prop :=
  ∀ (i : Instr) (s t : State), exec i s = .next t →
    t.cfg = s.cfg ∧ t.inp = s.inp ∧ t.rxAns = s.rxAns ∧ t.pending = s.pending

/-- R138, R136: `STATE` changes by the five rules only. (TICK runs the decoded frame, `TickRunsDecodedFrame`.) -/
def Obligations.StateChangesByFiveRules : Prop :=
  ∀ (i : Instr) (s t : State), i ≠ .tick → exec i s = .next t → t.engine ≠ s.engine →
    (∃ f, i = .rxNoop f ∧ s.engine = .idle ∧ s.q ≠ [] ∧ t.engine = .awaitStartAck) ∨
      (∃ f, i = .rxAck f ∧ s.engine = .awaitStartAck ∧ t.engine = .sending) ∨
      (∃ f h rest, i = .rxAck f ∧ s.engine = .sending ∧ s.q = h :: rest ∧ h.rem = 0 ∧ t.engine = .idle ∧
        t.q = rest) ∨
      (∃ f, i = .rxStart f ∧ t.engine = .receiving) ∨ ∃ f, i = .rxEnd f ∧ t.engine = .idle

/-- R14, R98: `Q` is a FIFO: it grows only at the tail by SUBMIT, and only its head is advanced or removed, in
`Sending`.
(Rests on D12 and D26 of 92_eei_decisions.md, the spec's own choice.) -/
def Obligations.QueueIsFifo : Prop :=
  ∀ (i : Instr) (s t : State), exec i s = .next t →
    t.q = s.q ∨ (∃ payload ty ctx, i = .submit payload ty ctx ∧ t.q = s.q ++ [⟨payload, 0, ty &&& 0xFE, ctx, 0⟩]) ∨
      ∃ h rest, s.engine = .sending ∧ s.q = h :: rest ∧
        (t.q = { h with cursor := h.cursor + min h.rem s.cfg.bodyMax, nextSeq := h.nextSeq + 1 } :: rest ∨
          (h.rem = 0 ∧ t.q = rest))

/-- R19: a fault bit once set stays set through every instruction.
(Rests on D24 and D25 of 92_eei_decisions.md, the spec's own choice.) -/
def Obligations.FaultBitsAreSticky : Prop :=
  ∀ (i : Instr) (s t : State), exec i s = .next t → s.fault &&& t.fault = s.fault

/-- R18, R25, R7: only REGISTER writes the registry, and the engine never looks into a handler token: with every token
exchanged for another, by whatever map, each instruction does the same, its tokens exchanged.
(Rests on D27 of 92_eei_decisions.md, the spec's own choice. R25 marks the access table as derived. Tokens as numbers
are the model's (log 6).) -/
def Obligations.OnlyRegisterWritesRegistry : Prop :=
  (∀ (i : Instr) (s t : State), exec i s = .next t → t.reg ≠ s.reg → ∃ ty h, i = .register ty h) ∧
    (∀ (g : Handler → Handler) (i : Instr) (s t : State), (∀ ty h, i ≠ .register ty h) → exec i s = .next t →
      exec i (s.renameHandlers g) = .next (t.renameHandlers g)) ∧
    ∀ (g : Handler → Handler) (ty : Byte) (h : Handler) (s t : State), exec (.register ty h) s = .next t →
      exec (.register ty (g h)) (s.renameHandlers g) = .next (t.renameHandlers g)

/-! ### Inbound NOOP, ACK and REJECT -/

/-- R121: a NOOP in `Idle` with a waiting transfer sends START for the head, announcing the remaining bytes, and enters
`AwaitStartAck`; nothing else changes.
(Rests on D6 of 92_eei_decisions.md, the spec's own choice. A remaining length of more than 16 bits, which no good
state has, is announced modulo 65536 (log 23).) -/
def Obligations.NoopStartsTransfer : Prop :=
  ∀ (s : State) (f : Frame) (h : Transfer) (rest : List Transfer),
    frameValid (typeByte 0 s.cfg.rxParity) f = true → s.engine = .idle → s.q = h :: rest → s.txReady = true →
    let rem := h.payload.length - h.cursor
    exec (.rxNoop f) s = .next
      { s.afterSend (encodeFrame s.cfg (typeByte 5 s.cfg.txParity) h.nextSeq h.ctx
          [h.dtype ||| s.cfg.txParity.setWidth 8, BitVec.ofNat 8 (rem / 256), BitVec.ofNat 8 rem]) with
        engine := .awaitStartAck, status := some .ok }

/-- R122, R134: a NOOP with an empty queue sends the keep-alive; with a waiting transfer and not in `Idle` it does
nothing.
(Rests on D10 and D17 of 92_eei_decisions.md, the spec's own choice.) -/
def Obligations.NoopKeepsAliveOrWaits : Prop :=
  ∀ (s : State) (f : Frame), frameValid (typeByte 0 s.cfg.rxParity) f = true →
    (s.q = [] → s.txReady = true →
      TickLeaves (exec (.rxNoop f) s) (s.afterSend (encodeFrame s.cfg (typeByte 0 s.cfg.txParity) 0 0 []))) ∧
    (s.q ≠ [] → s.engine ≠ .idle → exec (.rxNoop f) s = .next { s with status := some .ok })

/-- R130: an ACK in `AwaitStartAck` enters `Sending`; nothing is sent. -/
def Obligations.AckOfStartEntersSending : Prop :=
  ∀ (s : State) (f : Frame), frameValid (typeByte 3 s.cfg.rxParity) f = true → s.engine = .awaitStartAck →
    exec (.rxAck f) s = .next { s with engine := .sending, status := some .ok }

/-- R131: an ACK in `Sending` with payload left sends the next fragment, then advances the head's cursor and sequence
number; nothing else changes.
(Rests on D12 of 92_eei_decisions.md, the spec's own choice.) -/
def Obligations.AckSendsNextFragment : Prop :=
  ∀ (s : State) (f : Frame) (h : Transfer) (rest : List Transfer),
    frameValid (typeByte 3 s.cfg.rxParity) f = true → s.engine = .sending → s.q = h :: rest →
    h.cursor < h.payload.length → s.txReady = true →
    let k := min (h.payload.length - h.cursor) s.cfg.bodyMax
    exec (.rxAck f) s = .next
      { s.afterSend (encodeFrame s.cfg (h.dtype ||| s.cfg.txParity.setWidth 8) h.nextSeq h.ctx
          ((h.payload.drop h.cursor).take k)) with
        q := { h with cursor := h.cursor + k, nextSeq := h.nextSeq + 1 } :: rest, status := some .ok }

/-- R132: an ACK in `Sending` with nothing left sends END, pops the head and enters `Idle`.
(Rests on D11 of 92_eei_decisions.md, the spec's own choice.) -/
def Obligations.AckEndsTransfer : Prop :=
  ∀ (s : State) (f : Frame) (h : Transfer) (rest : List Transfer),
    frameValid (typeByte 3 s.cfg.rxParity) f = true → s.engine = .sending → s.q = h :: rest →
    h.payload.length ≤ h.cursor → s.txReady = true →
    TickLeaves (exec (.rxAck f) s)
      { s.afterSend (encodeFrame s.cfg (typeByte 6 s.cfg.txParity) h.nextSeq h.ctx []) with
        q := rest, engine := .idle }

/-- R133, R135: an ACK in `Idle` is answered with NOOP and starts no transfer; in `Receiving` it does nothing.
(Rests on D10 and D17 of 92_eei_decisions.md, the spec's own choice.) -/
def Obligations.AckIdleOrReceiving : Prop :=
  ∀ (s : State) (f : Frame), frameValid (typeByte 3 s.cfg.rxParity) f = true →
    (s.engine = .idle → s.txReady = true →
      TickLeaves (exec (.rxAck f) s) (s.afterSend (encodeFrame s.cfg (typeByte 0 s.cfg.txParity) 0 0 []))) ∧
    (s.engine = .receiving → exec (.rxAck f) s = .next { s with status := some .ok })

/-- R127: a REJECT resends the last frame byte for byte, or does nothing if none was sent since reset.
(Rests on D23 of 92_eei_decisions.md, the spec's own choice.) -/
def Obligations.RejectResendsLastFrame : Prop :=
  ∀ (s : State) (f : Frame), frameValid (typeByte 4 s.cfg.rxParity) f = true →
    (s.lastValid = true → s.txReady = true →
      TickLeaves (exec (.rxReject f) s) { s with out := s.out.extend s.lastFrame, txAns := s.txAns.tail }) ∧
    (s.lastValid = false → TickLeaves (exec (.rxReject f) s) s)

/-! ### The receive side -/

/-- R128: a START is acknowledged and enters `Receiving` from every state; the store and the queue are untouched.
(Rests on D8 of 92_eei_decisions.md, the spec's own choice.) -/
def Obligations.StartIsAcknowledged : Prop :=
  ∀ (s : State) (f : Frame), frameValid (typeByte 5 s.cfg.rxParity) f = true → s.txReady = true →
    exec (.rxStart f) s = .next
      { s.afterSend (encodeFrame s.cfg (typeByte 3 s.cfg.txParity) f.seq f.ctx []) with
        engine := .receiving, status := some .ok }

/-- R129: an END is acknowledged and enters `Idle` from every state, and the tick ends with the flush.
(Rests on D8 of 92_eei_decisions.md, the spec's own choice.) -/
def Obligations.EndIsAcknowledged : Prop :=
  ∀ (s : State) (f : Frame), frameValid (typeByte 6 s.cfg.rxParity) f = true → s.txReady = true →
    TickLeaves (exec (.rxEnd f) s)
      { s.afterSend (encodeFrame s.cfg (typeByte 3 s.cfg.txParity) f.seq f.ctx []) with engine := .idle }

/-- R125, R150, R178: a data frame in `Receiving` is acknowledged; its body makes a new entry at the end, or grows the
entry of its key in place, or is dropped whole with `RS_OVF` set where it does not fit.
(Rests on D4, D8, D25 and D36 of 92_eei_decisions.md, the spec's own choice.) -/
def Obligations.DataIsAcknowledgedAndAppended : Prop :=
  ∀ (r : KindRow) (s : State) (f : Frame), isDataRow r = true →
    frameValid (typeByte (kindOf r) s.cfg.rxParity) f = true → s.engine = .receiving → 9 ≤ f.length →
    s.txReady = true →
    let ty := typeByte (kindOf r) s.cfg.rxParity
    let x := { s.afterSend (encodeFrame s.cfg (typeByte 3 s.cfg.txParity) f.seq f.ctx []) with status := some .ok }
    let fresh := ∀ e ∈ s.rs, ¬(e.ty = ty ∧ e.ctx = f.ctx)
    let fits := fun n => ∀ cap, s.cfg.rsEntryBytes = some cap → n ≤ cap
    let room := ∀ cap, s.cfg.rsEntries = some cap → s.rs.length ≠ cap
    (fresh → room → fits f.body.length →
      exec (rxInstr r f) s = .next { x with rs := s.rs ++ [⟨ty, f.ctx, f.body⟩] }) ∧
    (fresh → ¬(room ∧ fits f.body.length) →
      exec (rxInstr r f) s = .next { x with fault := s.fault ||| 2 }) ∧
    (∀ (pre post : List Entry) (e : Entry), s.rs = pre ++ e :: post → e.ty = ty → e.ctx = f.ctx →
      (∀ e' ∈ pre ++ post, ¬(e'.ty = ty ∧ e'.ctx = f.ctx)) →
      (fits (e.buf.length + f.body.length) →
        exec (rxInstr r f) s = .next { x with rs := pre ++ { e with buf := e.buf ++ f.body } :: post }) ∧
      (¬fits (e.buf.length + f.body.length) →
        exec (rxInstr r f) s = .next { x with fault := s.fault ||| 2 }))

/-- R126: a data frame outside `Receiving`, or with an empty body, does nothing.
(Rests on D4 and D17 of 92_eei_decisions.md, the spec's own choice.) -/
def Obligations.DataOutsideReceivingIsLost : Prop :=
  ∀ (r : KindRow) (s : State) (f : Frame), isDataRow r = true →
    frameValid (typeByte (kindOf r) s.cfg.rxParity) f = true → (s.engine ≠ .receiving ∨ f.length = 8) →
    TickLeaves (exec (rxInstr r f) s) s

/-- R151, R178: a PING or PONG records the marker under its key, in any state: a new entry at the end, or the entry of
its key set to the marker alone, or `RS_OVF` where no entry is free; no frame is written by the row.
(Rests on D17, D19 and D25 of 92_eei_decisions.md, the spec's own choice.) -/
def Obligations.MarkerIsRecorded : Prop :=
  ∀ (r : KindRow) (s : State) (f : Frame), (r = .ping ∨ r = .pong) →
    frameValid (typeByte (kindOf r) s.cfg.rxParity) f = true →
    let ty := typeByte (kindOf r) s.cfg.rxParity
    let fresh := ∀ e ∈ s.rs, ¬(e.ty = ty ∧ e.ctx = f.ctx)
    (fresh → s.cfg.rsEntries ≠ some s.rs.length →
      TickLeaves (exec (rxInstr r f) s) { s with rs := s.rs ++ [⟨ty, f.ctx, [s.cfg.marker]⟩] }) ∧
    (fresh → s.cfg.rsEntries = some s.rs.length →
      TickLeaves (exec (rxInstr r f) s) { s with fault := s.fault ||| 2 }) ∧
    ∀ (pre post : List Entry) (e : Entry), s.rs = pre ++ e :: post → e.ty = ty → e.ctx = f.ctx →
      (∀ e' ∈ pre ++ post, ¬(e'.ty = ty ∧ e'.ctx = f.ctx)) →
      TickLeaves (exec (rxInstr r f) s) { s with rs := pre ++ { e with buf := [s.cfg.marker] } :: post }

/-- R156, R157, R160: in `Idle` the marker is flushed by the same tick: PONG from the default handler, one delivery to a
registered handler, nothing where there is none.
(Rests on D19, D21 and D33 of 92_eei_decisions.md, the spec's own choice.) -/
def Obligations.MarkerIsFlushedWhenIdle : Prop :=
  ∀ (r : KindRow) (s : State) (f : Frame), (r = .ping ∨ r = .pong) →
    frameValid (typeByte (kindOf r) s.cfg.rxParity) f = true → s.engine = .idle → s.rs = [] →
    s.cfg.rsEntries ≠ some 0 →
    (s.regRow (kindOf r) = .autoPong → s.txReady = true →
      exec (rxInstr r f) s = .next
        { s.afterSend (encodeFrame s.cfg (typeByte 2 s.cfg.txParity) 0 f.ctx []) with status := some .ok }) ∧
    (∀ h, s.regRow (kindOf r) = .user h →
      exec (rxInstr r f) s = .next
        { s with
          delivered := s.delivered ++
            [⟨h, typeByte (kindOf r) s.cfg.rxParity, f.ctx, [s.cfg.marker], s.out.top⟩]
          status := some .ok }) ∧
    (s.regRow (kindOf r) = .unregistered → exec (rxInstr r f) s = .next { s with status := some .ok })

/-- R109: an own-origin frame does nothing of its own, whatever its checksum; the tick ends as always.
(Rests on D16 of 92_eei_decisions.md, the spec's own choice.) -/
def Obligations.OwnOriginIsIgnored : Prop :=
  ∀ (k : Kind) (f : Frame) (s : State), TickLeaves (exec (.rxOwnOrigin k f) s) s

/-- R123: a bad checksum on a frame of peer origin of any kind is answered with REJECT, echoing sequence, context and
type; nothing else changes.
(Rests on D9 and D15 of 92_eei_decisions.md, the spec's own choice.) -/
def Obligations.BadChecksumIsRejected : Prop :=
  ∀ (r : KindRow) (s : State) (f : Frame), frameValid (typeByte (kindOf r) s.cfg.rxParity) f = false →
    s.txReady = true →
    TickLeaves (exec (rxInstr r f) s)
      (s.afterSend (encodeFrame s.cfg (typeByte 4 s.cfg.txParity) f.seq f.ctx
        [typeByte (kindOf r) s.cfg.rxParity]))

/-! ### The idle-flush -/

/-- R157: the flush of any tick removes an entry whose registry row is `NONE` with no delivery, no frame, no flag and no
status: the tick ends as if the entry had not been there. -/
def Obligations.UnregisteredEntryIsDropped : Prop :=
  ∀ (s : State) (e : Entry) (rest : List Entry), s.engine = .idle → s.rs = e :: rest →
    s.regRow (kind e.ty) = .unregistered → finishTick (.ok s) = finishTick (.ok { s with rs := rest })

/-- R155, R154, R157, R41(b): a tick that ends in `Idle` on a working transport empties the store, delivering and answering
in the order of the entries: the PONGs in order, the deliveries in order, and each delivery made when `OUT` held exactly
the PONGs of the entries before it. (Stated on the own-origin frame, the tick that does nothing else.)
(Rests on D21, D22 and D33 of 92_eei_decisions.md, the spec's own choice. The order of creation is the spec's decision
D22, which R155 lets a model leave free (log 20). The length of OUT at a delivery is the model's record (log 19).) -/
def Obligations.FlushDeliversInOrder : Prop :=
  ∀ (k : Kind) (f : Frame) (s : State), s.engine = .idle → s.linkUp →
    ∃ t, exec (.rxOwnOrigin k f) s = .next t ∧ t.rs = [] ∧ t.status = some .ok ∧
      t.out = s.out.extend (s.pongFrames s.rs).flatten ∧
      t.delivered.map Delivery.call = s.delivered.map Delivery.call ++ s.handedOver s.rs ∧
      t.delivered.take s.delivered.length = s.delivered ∧
      (s.cfg.legal → ∀ pre e post h, s.rs = pre ++ e :: post → s.regRow (kind e.ty) = .user h →
        t.delivered[s.delivered.length + (s.handedOver pre).length]? =
          some ⟨h, e.ty, e.ctx, e.buf, s.out.top + (s.pongFrames pre).length * s.cfg.packetSize⟩) ∧
      t.lastFrame = (s.pongFrames s.rs).getLast?.getD s.lastFrame ∧
      t.lastValid = (s.lastValid || !(s.pongFrames s.rs).isEmpty) ∧
      t.engine = .idle ∧ t.q = s.q ∧ t.reg = s.reg ∧ t.fault = s.fault ∧ t.cfg = s.cfg ∧ t.inp = s.inp

/-- R180(c), R41(b): a PONG that fails in the flush stops it: the entries before it are gone and dispatched, each delivery
made when `OUT` held exactly the PONGs of the entries before it; the failing entry and the later ones stay, `IOERR` is set
and the status is `IO_FAIL`.
(Rests on D21, D22 and D24 of 92_eei_decisions.md, the spec's own choice. The order of creation is the spec's decision
D22 (log 20). The length of OUT at a delivery is the model's record (log 19).) -/
def Obligations.FlushStopsAtFailedPong : Prop :=
  ∀ (k : Kind) (f : Frame) (s : State) (pre post : List Entry) (e : Entry) (tx : List Bool),
    s.engine = .idle → s.rs = pre ++ e :: post → s.regRow (kind e.ty) = .autoPong →
    s.txAns = List.replicate (s.pongFrames pre).length true ++ false :: tx →
    ∃ t, exec (.rxOwnOrigin k f) s = .next t ∧ t.rs = e :: post ∧ t.status = some .ioFail ∧
      t.fault = s.fault ||| 1 ∧ t.txAns = tx ∧ t.out = s.out.extend (s.pongFrames pre).flatten ∧
      t.delivered.map Delivery.call = s.delivered.map Delivery.call ++ s.handedOver pre ∧
      t.delivered.take s.delivered.length = s.delivered ∧
      (s.cfg.legal → ∀ before e' after h, pre = before ++ e' :: after → s.regRow (kind e'.ty) = .user h →
        t.delivered[s.delivered.length + (s.handedOver before).length]? =
          some ⟨h, e'.ty, e'.ctx, e'.buf, s.out.top + (s.pongFrames before).length * s.cfg.packetSize⟩) ∧
      t.lastFrame = (s.pongFrames pre).getLast?.getD s.lastFrame ∧
      t.lastValid = (s.lastValid || !(s.pongFrames pre).isEmpty) ∧
      t.engine = .idle ∧ t.q = s.q ∧ t.reg = s.reg ∧ t.cfg = s.cfg ∧ t.inp = s.inp

/-- R180(b): a row whose `Send` fails commits nothing: `FAULT.IOERR` and the status change, no flush follows.
(Rests on D24 of 92_eei_decisions.md, the spec's own choice.) -/
def Obligations.FailedSendCommitsNothing : Prop :=
  ∀ (s : State) (f : Frame), s.txReady = false →
    (∀ r, frameValid (typeByte (kindOf r) s.cfg.rxParity) f = false →
      exec (rxInstr r f) s = .next s.afterFailedSend) ∧
    (frameValid (typeByte 0 s.cfg.rxParity) f = true → (s.q = [] ∨ s.engine = .idle) →
      exec (.rxNoop f) s = .next s.afterFailedSend) ∧
    (frameValid (typeByte 3 s.cfg.rxParity) f = true → (s.engine = .idle ∨ (s.engine = .sending ∧ s.q ≠ [])) →
      exec (.rxAck f) s = .next s.afterFailedSend) ∧
    (frameValid (typeByte 4 s.cfg.rxParity) f = true → s.lastValid = true →
      exec (.rxReject f) s = .next s.afterFailedSend) ∧
    (frameValid (typeByte 5 s.cfg.rxParity) f = true → exec (.rxStart f) s = .next s.afterFailedSend) ∧
    (frameValid (typeByte 6 s.cfg.rxParity) f = true → exec (.rxEnd f) s = .next s.afterFailedSend) ∧
    (∀ r, isDataRow r = true → frameValid (typeByte (kindOf r) s.cfg.rxParity) f = true → s.engine = .receiving →
      9 ≤ f.length → exec (rxInstr r f) s = .next s.afterFailedSend) ∧
    exec .ping s = .next s.afterFailedSend

/-! ### Host commands -/

/-- R90: an accepted SUBMIT appends one transfer at the tail and answers `OK`; nothing else changes.
(Rests on D7, D12, D25 and D26 of 92_eei_decisions.md, the spec's own choice.) -/
def Obligations.SubmitAppendsTransfer : Prop :=
  ∀ (s : State) (payload : Bytes) (ty ctx : Byte), 7 ≤ (kind ty).toNat → payload.length ≤ 65535 →
    s.cfg.queueDepth ≠ some s.q.length →
    exec (.submit payload ty ctx) s =
      .next { s with q := s.q ++ [⟨payload, 0, ty &&& 0xFE, ctx, 0⟩], status := some .ok }

/-- R91: the refusals of SUBMIT, in order; each changes nothing but the status.
(Rests on D7, D25, D26 and D28 of 92_eei_decisions.md, the spec's own choice.) -/
def Obligations.SubmitRefusals : Prop :=
  ∀ (s : State) (payload : Bytes) (ty ctx : Byte),
    ((kind ty).toNat < 7 →
      exec (.submit payload ty ctx) s = .next { s with status := some .refusedType }) ∧
    (7 ≤ (kind ty).toNat → 65535 < payload.length →
      exec (.submit payload ty ctx) s = .next { s with status := some .refusedLen }) ∧
    (7 ≤ (kind ty).toNat → payload.length ≤ 65535 → s.cfg.queueDepth = some s.q.length →
      exec (.submit payload ty ctx) s = .next { s with status := some .refusedFull })

/-- R158: REGISTER overwrites the row of the type's kind, bit 0 ignored, and answers `OK`; no other row and nothing else
changes.
(Rests on D27 of 92_eei_decisions.md, the spec's own choice.) -/
def Obligations.RegisterOverwritesRow : Prop :=
  ∀ (s : State) (ty : Byte) (h : Handler),
    ∃ t, exec (.register ty h) s = .next t ∧ t.regRow (kind ty) = .user h ∧
      (∀ k, k ≠ kind ty → t.regRow k = s.regRow k) ∧ t = { s with reg := t.reg, status := some .ok } ∧
      exec (.register (ty ^^^ 1) h) s = .next t

/-- R159: PING writes one PING frame at once; only `LAST` and the status change beside `OUT`, and nothing is flushed.
(Rests on D20 of 92_eei_decisions.md, the spec's own choice.) -/
def Obligations.PingSendsAtOnce : Prop :=
  ∀ s : State, s.txReady = true →
    exec .ping s = .next
      { s.afterSend (encodeFrame s.cfg (typeByte 1 s.cfg.txParity) 0 0 []) with status := some .ok }

/-! ### Transmitted frames -/

/-- R59 to R65: the transmission of each control frame, with the fields its rule gives encode.
(Rests on D6, D8, D9, D10, D11, D20 and D21 of 92_eei_decisions.md, the spec's own choice. That a TX row runs on its
own is the model's (log 10).) -/
def Obligations.ControlFramesAreSent : Prop :=
  ∀ (s : State) (seq ctx ty dt : Byte) (rem : BitVec 16), s.txReady = true →
    let sent := fun (k : Kind) (q c : Byte) (body : Bytes) =>
      Host.Outcome.next (ρ := Refusal) (φ := Fault) (s.afterSend (encodeFrame s.cfg (typeByte k s.cfg.txParity) q c body))
    exec .txNoop s = sent 0 0 0 [] ∧ exec .txPing s = sent 1 0 0 [] ∧ exec (.txPong ctx) s = sent 2 0 ctx [] ∧
      exec (.txAck seq ctx) s = sent 3 seq ctx [] ∧ exec (.txReject seq ctx ty) s = sent 4 seq ctx [ty] ∧
      exec (.txStart seq ctx dt rem) s =
        sent 5 seq ctx [dt, BitVec.ofNat 8 (rem.toNat / 256), BitVec.ofNat 8 (rem.toNat % 256)] ∧
      exec (.txEnd seq ctx) s = sent 6 seq ctx []

/-- R66: the transmission of a fragment under each of the five data patterns.
(Rests on D4 of 92_eei_decisions.md, the spec's own choice. That a TX row runs on its own is the model's (log 10).) -/
def Obligations.DataFramesAreSent : Prop :=
  ∀ (r : KindRow) (s : State) (seq ctx : Byte) (body : Bytes), isDataRow r = true → s.txReady = true →
    exec (txDataInstr r seq ctx body) s =
      .next (s.afterSend (encodeFrame s.cfg (typeByte (kindOf r) s.cfg.txParity) seq ctx body))

/-- R107, R176: a transmission the transport refuses changes `FAULT.IOERR` and the status, not `OUT` and not `LAST`.
(Rests on D24 of 92_eei_decisions.md, the spec's own choice. That a TX row runs on its own is the model's (log 10).) -/
def Obligations.FailedTransmissionKeepsLast : Prop :=
  ∀ (i : Instr) (s : State) (f : Bytes), encode s.cfg i = .outbound f → s.txReady = false →
    exec i s = .next s.afterFailedSend

/-! ### Whole transfers -/

/-- R93 to R96: the ACKs of an uninterrupted transfer send exactly `ceil(L / BODY_MAX)` fragments, numbered from 0 modulo
256, whose bodies are the payload cut in order.
(Rests on D12 of 92_eei_decisions.md, the spec's own choice.) -/
def Obligations.FragmentsCarryThePayload : Prop :=
  ∀ (s : State) (f : Frame) (h : Transfer) (rest : List Transfer),
    s.cfg.legal → frameValid (typeByte 3 s.cfg.rxParity) f = true → s.engine = .sending → s.q = h :: rest →
    h.cursor = 0 → h.nextSeq = 0 → s.linkUp →
    let n := (h.payload.length + s.cfg.bodyMax - 1) / s.cfg.bodyMax
    let cut := fun k => (h.payload.drop (k * s.cfg.bodyMax)).take s.cfg.bodyMax
    ∃ fs t, runAcks f n s = some (fs, t) ∧
      fs = (List.range n).map (fun k =>
        encodeFrame s.cfg (h.dtype ||| s.cfg.txParity.setWidth 8) (BitVec.ofNat 8 k) h.ctx (cut k)) ∧
      ((List.range n).map cut).flatten = h.payload ∧ t.out = s.out.extend fs.flatten ∧ t.engine = .sending ∧
      t.q = { h with cursor := h.payload.length, nextSeq := BitVec.ofNat 8 n } :: rest

/-- R97, R140: the fragments of a payload, read one tick each by an engine of the other parity in `Receiving`, build one
entry that holds the payload bit for bit. (Lock-step, no earlier entry of the key, an unbounded store; the receiver's
engine is this block with the other parity, R5(g).)
(Rests on D3, D4 and D8 of 92_eei_decisions.md, the spec's own choice. R97 and R140 mark the law as derived; the
receiving engine as this block with the other parity is the spec's own reading (R5(g), D3).) -/
def Obligations.PayloadRoundTrip : Prop :=
  ∀ (s r : State) (f : Frame) (h : Transfer) (rest : List Transfer),
    s.cfg.legal → frameValid (typeByte 3 s.cfg.rxParity) f = true → s.engine = .sending → s.q = h :: rest →
    h.good → h.cursor = 0 → h.nextSeq = 0 → h.payload ≠ [] → s.linkUp →
    r.cfg.packetSize = s.cfg.packetSize → r.cfg.txParity ≠ s.cfg.txParity → r.engine = .receiving → r.linkUp →
    r.cfg.rsEntries = none → r.cfg.rsEntryBytes = none →
    (∀ e ∈ r.rs, ¬(e.ty = (h.dtype ||| s.cfg.txParity.setWidth 8) ∧ e.ctx = h.ctx)) →
    ∃ fs t u, runAcks f (fragmentCount s.cfg h.payload.length) s = some (fs, t) ∧ runChunks fs r = some u ∧
      u.engine = .receiving ∧
      u.rs = r.rs ++ [⟨h.dtype ||| s.cfg.txParity.setWidth 8, h.ctx, h.payload⟩]
end

