-- ==== Sys2Proof/Laws/Codec.lean ====
section
/-! SUPPORT. Small lemmas of the codec: the type byte's fields, the rows of the kinds, the sizes of frames. -/

namespace Sys2Proof

@[simp] theorem kind_typeByte (k : Kind) (o : BitVec 1) : kind (typeByte k o) = k := by
  revert k o; decide

@[simp] theorem origin_typeByte (k : Kind) (o : BitVec 1) : origin (typeByte k o) = o := by
  revert k o; decide

@[simp] theorem typeByte_kind_origin (t : Byte) : typeByte (kind t) (origin t) = t := by
  revert t; decide

@[simp] theorem kindOf_rowOfKind (k : Kind) : kindOf (rowOfKind k) = k := by
  revert k; decide

@[simp] theorem rowOfKind_kindOf (r : KindRow) : rowOfKind (kindOf r) = r := by
  cases r with
  | data8 x => revert x; decide
  | data16 x => revert x; decide
  | data32 x => revert x; decide
  | data64 x => revert x; decide
  | _ => rfl

/-- The two origin bits differ. -/
theorem rxParity_ne_txParity (p : Params) : p.rxParity ≠ p.txParity := by
  unfold Params.rxParity
  generalize p.txParity = b
  revert b; decide

@[simp] theorem zeros_length (n : Nat) : (zeros n).length = n := by simp [zeros]

theorem frameBytes_length (t : Byte) (f : Frame) : (frameBytes t f).length = f.length := by
  simp [frameBytes, Frame.length]; omega

theorem encodeFrame_length (p : Params) (hp : p.legal) (t s c : Byte) (body : Bytes) :
    (encodeFrame p t s c body).length = p.packetSize := by
  have h1 := hp.1
  simp [encodeFrame, Params.bodyMax]; omega

/-- Exclusive-or over a byte string, the seed taken out. -/
theorem foldl_xor (l : Bytes) (a : Byte) : l.foldl (· ^^^ ·) a = a ^^^ l.foldl (· ^^^ ·) 0 := by
  induction l generalizing a with
  | nil => simp
  | cons b l ih => simp only [List.foldl_cons]; rw [ih, ih (0 ^^^ b)]; simp [BitVec.xor_assoc]

/-- The checksum of a frame with its header written out: the byte at offset 4 does not enter (R75). -/
theorem checksum_header (t s c n k r5 r6 r7 : Byte) (rest : Bytes) (len : Nat) (h : 8 ≤ len) :
    checksum (t :: s :: c :: n :: k :: r5 :: r6 :: r7 :: rest) len =
      t ^^^ s ^^^ c ^^^ n ^^^ r5 ^^^ r6 ^^^ r7 ^^^ (rest.take (len - 8)).foldl (· ^^^ ·) 0 := by
  obtain ⟨m, rfl⟩ : ∃ m, len = m + 8 := ⟨len - 8, by omega⟩
  simp [checksum]
  rw [foldl_xor]
  rfl

/-- A byte string of 8 bytes or more has a header. -/
theorem exists_header (raw : Bytes) (h : 8 ≤ raw.length) :
    ∃ t s c n k r5 r6 r7 rest, raw = t :: s :: c :: n :: k :: r5 :: r6 :: r7 :: rest := by
  match raw, h with
  | t :: s :: c :: n :: k :: r5 :: r6 :: r7 :: rest, _ => exact ⟨t, s, c, n, k, r5, r6, r7, rest, rfl⟩

/-- A type byte of own origin classifies as RX_OWN_ORIGIN (R72). -/
theorem classify_own {p : Params} {t : Byte} (h : origin t = p.txParity) (f : Frame) :
    classify p t f = .rxOwnOrigin (kind t) f := by simp [classify, h]

/-- A type byte of peer origin classifies by its kind (R72). -/
theorem classify_peer (p : Params) (k : Kind) (f : Frame) :
    classify p (typeByte k p.rxParity) f = rxInstr (rowOfKind k) f := by
  simp [classify, rxParity_ne_txParity]

/-- START's two length bytes make up the length (R36). -/
theorem remBytes_append (rem : BitVec 16) : rem.extractLsb' 8 8 ++ rem.extractLsb' 0 8 = rem := by
  apply BitVec.eq_of_getLsbD_eq
  intro i hi
  rw [BitVec.getLsbD_append]
  by_cases h : i < 8
  · simp [h]
  · simp [h]; rw [show 8 + (i - 8) = i by omega]; simp; intro; omega

end Sys2Proof
end

