-- ==== Sys2Proof/Laws/Fetch.lean ====
section
/-! SUPPORT. What a step takes from a request put in front of the pending ones, and the sizes of the chunks presented. -/

namespace Sys2Proof.Machine

@[simp] theorem State.withCommand_cfg (s : State) (w : CmdWord) (peer : Bytes) : (s.withCommand w peer).cfg = s.cfg := rfl
@[simp] theorem State.withCommand_pending (s : State) (w : CmdWord) (peer : Bytes) :
    (s.withCommand w peer).pending = .command w peer .latest [] :: s.pending := rfl

@[simp] theorem State.fetch_withCommand (s : State) (w : CmdWord) (peer : Bytes) :
    (s.withCommand w peer).fetch = .run (decodeCommand w) (s.accept s.pending peer .latest []) := rfl

/-- A step with a TICK in front runs a TICK with the chunk as the tail of `IN`. -/
theorem step_withTick (s : State) (raw : Bytes) :
    step (s.withTick raw) = exec .tick (s.accept s.pending raw .latest []) := rfl

@[simp] theorem State.accept_cfg (s : State) (rest : List Request) (peer : Bytes) (rx : RxAnswer) (tx : List Bool) :
    (s.accept rest peer rx tx).cfg = s.cfg := rfl
@[simp] theorem State.accept_inp (s : State) (rest : List Request) (peer : Bytes) (rx : RxAnswer) (tx : List Bool) :
    (s.accept rest peer rx tx).inp = s.inp.extend peer := rfl
@[simp] theorem State.accept_pending (s : State) (rest : List Request) (peer : Bytes) (rx : RxAnswer) (tx : List Bool) :
    (s.accept rest peer rx tx).pending = rest := rfl

theorem peerFrame_length (p : Params) (hp : p.legal) (r : KindRow) (seq ctx : Byte) :
    (peerFrame p r seq ctx).length = p.packetSize := encodeFrame_length p hp _ _ _ _

@[simp] theorem spoilt_length (f : Bytes) : (spoilt f).length = f.length := List.length_set ..

end Sys2Proof.Machine
end

