-- ==== Sys2Proof/Laws/Memory.lean ====
section
/-! SUPPORT. The channels: appending keeps the canonical form, and what the end of a channel is. -/

namespace Sys2Proof.Machine

@[simp] theorem cellsFrom_length (a : Nat) (bs : Bytes) : (cellsFrom a bs).length = bs.length := by
  induction bs generalizing a with
  | nil => rfl
  | cons b bs ih => simp [cellsFrom, ih]

theorem cellsFrom_fst (a : Nat) (bs : Bytes) : (cellsFrom a bs).map Prod.fst = List.range' a bs.length := by
  induction bs generalizing a with
  | nil => rfl
  | cons b bs ih => simp [cellsFrom, ih, List.range'_succ]

@[simp] theorem cellsFrom_snd (a : Nat) (bs : Bytes) : (cellsFrom a bs).map Prod.snd = bs := by
  induction bs generalizing a with
  | nil => rfl
  | cons b bs ih => simp [cellsFrom, ih]

theorem cellsFrom_append (a : Nat) (xs ys : Bytes) :
    cellsFrom a (xs ++ ys) = cellsFrom a xs ++ cellsFrom (a + xs.length) ys := by
  induction xs generalizing a with
  | nil => rfl
  | cons b bs ih => simp [cellsFrom, ih, Nat.add_assoc, Nat.add_comm 1]

/-- The end of a channel moves by the number of bytes appended. -/
theorem Memory.top_extend (m : Memory) (bs : Bytes) : (m.extend bs).top = m.top + bs.length := by
  unfold Memory.extend
  generalize hm : m.top = a
  induction bs using List.reverseRecOn with
  | nil => simpa [cellsFrom] using hm
  | append_singleton bs b _ =>
    simp [Memory.top, cellsFrom_append, cellsFrom, ← List.append_assoc]
    omega

/-- Appending twice is appending once. -/
theorem Memory.extend_append (m : Memory) (xs ys : Bytes) : m.extend (xs ++ ys) = (m.extend xs).extend ys := by
  have h := Memory.top_extend m xs
  rw [Memory.extend, Memory.extend, h, Memory.extend, cellsFrom_append, List.append_assoc]

@[simp] theorem Memory.extend_nil (m : Memory) : m.extend [] = m := by simp [Memory.extend, cellsFrom]

/-- A channel in canonical form ends at its length. -/
theorem Memory.top_of_wf {m : Memory} (h : m.wf) : m.top = m.length := by
  induction m using List.reverseRecOn with
  | nil => rfl
  | append_singleton m c _ =>
    simp only [Memory.wf, List.map_append, List.length_append, List.map_cons, List.map_nil, List.length_cons,
      List.length_nil, Nat.zero_add, List.range_succ] at h
    have h2 := (List.append_inj h (by simp)).2
    simp only [List.cons.injEq, and_true] at h2
    simp [Memory.top, h2]

/-- Appending keeps the canonical form. -/
theorem Memory.extend_wf {m : Memory} (h : m.wf) (bs : Bytes) : (m.extend bs).wf := by
  unfold Memory.wf Memory.extend
  rw [List.map_append, cellsFrom_fst, Memory.top_of_wf h, show m.map Prod.fst = List.range m.length from h]
  have := List.range'_append_1 (s := 0) (m := List.length m) (n := bs.length)
  simpa [List.range_eq_range'] using this

/-- The most recent bytes of a channel to which exactly that many were just appended. -/
theorem Memory.latest_extend (m : Memory) (bs : Bytes) : (m.extend bs).latest bs.length = bs := by
  simp [Memory.latest, Memory.extend, lastBytes]

/-- A channel in canonical form lists no offset twice, and its offsets rise strictly. -/
theorem Memory.wf_rising {m : Memory} (h : m.wf) : (m.map Prod.fst).Pairwise (· < ·) := by
  rw [show m.map Prod.fst = List.range m.length from h]
  exact List.pairwise_lt_range

theorem State.reset_out_wf : State.reset.out.wf := rfl

theorem State.reset_inp_wf : State.reset.inp.wf := rfl

end Sys2Proof.Machine
end

