-- ==== Sys2Proof/Laws/State.lean ====
section
/-! SUPPORT. One lemma per field per update of the state, so that no proof unfolds a record update. -/

namespace Sys2Proof.Machine

@[simp] theorem State.setEngine_cfg (s : State) (e : EngineState) : (s.setEngine e).cfg = s.cfg := rfl
@[simp] theorem State.setEngine_engine (s : State) (e : EngineState) : (s.setEngine e).engine = e := rfl
@[simp] theorem State.setEngine_q (s : State) (e : EngineState) : (s.setEngine e).q = s.q := rfl
@[simp] theorem State.setEngine_lastValid (s : State) (e : EngineState) : (s.setEngine e).lastValid = s.lastValid := rfl
@[simp] theorem State.setEngine_lastFrame (s : State) (e : EngineState) : (s.setEngine e).lastFrame = s.lastFrame := rfl
@[simp] theorem State.setEngine_rs (s : State) (e : EngineState) : (s.setEngine e).rs = s.rs := rfl
@[simp] theorem State.setEngine_reg (s : State) (e : EngineState) : (s.setEngine e).reg = s.reg := rfl
@[simp] theorem State.setEngine_fault (s : State) (e : EngineState) : (s.setEngine e).fault = s.fault := rfl
@[simp] theorem State.setEngine_out (s : State) (e : EngineState) : (s.setEngine e).out = s.out := rfl
@[simp] theorem State.setEngine_inp (s : State) (e : EngineState) : (s.setEngine e).inp = s.inp := rfl
@[simp] theorem State.setEngine_delivered (s : State) (e : EngineState) : (s.setEngine e).delivered = s.delivered := rfl
@[simp] theorem State.setEngine_status (s : State) (e : EngineState) : (s.setEngine e).status = s.status := rfl
@[simp] theorem State.setEngine_rxAns (s : State) (e : EngineState) : (s.setEngine e).rxAns = s.rxAns := rfl
@[simp] theorem State.setEngine_txAns (s : State) (e : EngineState) : (s.setEngine e).txAns = s.txAns := rfl
@[simp] theorem State.setEngine_pending (s : State) (e : EngineState) : (s.setEngine e).pending = s.pending := rfl

@[simp] theorem State.setQ_cfg (s : State) (q : List Transfer) : (s.setQ q).cfg = s.cfg := rfl
@[simp] theorem State.setQ_engine (s : State) (q : List Transfer) : (s.setQ q).engine = s.engine := rfl
@[simp] theorem State.setQ_q (s : State) (q : List Transfer) : (s.setQ q).q = q := rfl
@[simp] theorem State.setQ_lastValid (s : State) (q : List Transfer) : (s.setQ q).lastValid = s.lastValid := rfl
@[simp] theorem State.setQ_lastFrame (s : State) (q : List Transfer) : (s.setQ q).lastFrame = s.lastFrame := rfl
@[simp] theorem State.setQ_rs (s : State) (q : List Transfer) : (s.setQ q).rs = s.rs := rfl
@[simp] theorem State.setQ_reg (s : State) (q : List Transfer) : (s.setQ q).reg = s.reg := rfl
@[simp] theorem State.setQ_fault (s : State) (q : List Transfer) : (s.setQ q).fault = s.fault := rfl
@[simp] theorem State.setQ_out (s : State) (q : List Transfer) : (s.setQ q).out = s.out := rfl
@[simp] theorem State.setQ_inp (s : State) (q : List Transfer) : (s.setQ q).inp = s.inp := rfl
@[simp] theorem State.setQ_delivered (s : State) (q : List Transfer) : (s.setQ q).delivered = s.delivered := rfl
@[simp] theorem State.setQ_status (s : State) (q : List Transfer) : (s.setQ q).status = s.status := rfl
@[simp] theorem State.setQ_rxAns (s : State) (q : List Transfer) : (s.setQ q).rxAns = s.rxAns := rfl
@[simp] theorem State.setQ_txAns (s : State) (q : List Transfer) : (s.setQ q).txAns = s.txAns := rfl
@[simp] theorem State.setQ_pending (s : State) (q : List Transfer) : (s.setQ q).pending = s.pending := rfl

@[simp] theorem State.setRs_cfg (s : State) (rs : List Entry) : (s.setRs rs).cfg = s.cfg := rfl
@[simp] theorem State.setRs_engine (s : State) (rs : List Entry) : (s.setRs rs).engine = s.engine := rfl
@[simp] theorem State.setRs_q (s : State) (rs : List Entry) : (s.setRs rs).q = s.q := rfl
@[simp] theorem State.setRs_lastValid (s : State) (rs : List Entry) : (s.setRs rs).lastValid = s.lastValid := rfl
@[simp] theorem State.setRs_lastFrame (s : State) (rs : List Entry) : (s.setRs rs).lastFrame = s.lastFrame := rfl
@[simp] theorem State.setRs_rs (s : State) (rs : List Entry) : (s.setRs rs).rs = rs := rfl
@[simp] theorem State.setRs_reg (s : State) (rs : List Entry) : (s.setRs rs).reg = s.reg := rfl
@[simp] theorem State.setRs_fault (s : State) (rs : List Entry) : (s.setRs rs).fault = s.fault := rfl
@[simp] theorem State.setRs_out (s : State) (rs : List Entry) : (s.setRs rs).out = s.out := rfl
@[simp] theorem State.setRs_inp (s : State) (rs : List Entry) : (s.setRs rs).inp = s.inp := rfl
@[simp] theorem State.setRs_delivered (s : State) (rs : List Entry) : (s.setRs rs).delivered = s.delivered := rfl
@[simp] theorem State.setRs_status (s : State) (rs : List Entry) : (s.setRs rs).status = s.status := rfl
@[simp] theorem State.setRs_rxAns (s : State) (rs : List Entry) : (s.setRs rs).rxAns = s.rxAns := rfl
@[simp] theorem State.setRs_txAns (s : State) (rs : List Entry) : (s.setRs rs).txAns = s.txAns := rfl
@[simp] theorem State.setRs_pending (s : State) (rs : List Entry) : (s.setRs rs).pending = s.pending := rfl

@[simp] theorem State.setLast_cfg (s : State) (f : Bytes) : (s.setLast f).cfg = s.cfg := rfl
@[simp] theorem State.setLast_engine (s : State) (f : Bytes) : (s.setLast f).engine = s.engine := rfl
@[simp] theorem State.setLast_q (s : State) (f : Bytes) : (s.setLast f).q = s.q := rfl
@[simp] theorem State.setLast_lastValid (s : State) (f : Bytes) : (s.setLast f).lastValid = true := rfl
@[simp] theorem State.setLast_lastFrame (s : State) (f : Bytes) : (s.setLast f).lastFrame = f := rfl
@[simp] theorem State.setLast_rs (s : State) (f : Bytes) : (s.setLast f).rs = s.rs := rfl
@[simp] theorem State.setLast_reg (s : State) (f : Bytes) : (s.setLast f).reg = s.reg := rfl
@[simp] theorem State.setLast_fault (s : State) (f : Bytes) : (s.setLast f).fault = s.fault := rfl
@[simp] theorem State.setLast_out (s : State) (f : Bytes) : (s.setLast f).out = s.out := rfl
@[simp] theorem State.setLast_inp (s : State) (f : Bytes) : (s.setLast f).inp = s.inp := rfl
@[simp] theorem State.setLast_delivered (s : State) (f : Bytes) : (s.setLast f).delivered = s.delivered := rfl
@[simp] theorem State.setLast_status (s : State) (f : Bytes) : (s.setLast f).status = s.status := rfl
@[simp] theorem State.setLast_rxAns (s : State) (f : Bytes) : (s.setLast f).rxAns = s.rxAns := rfl
@[simp] theorem State.setLast_txAns (s : State) (f : Bytes) : (s.setLast f).txAns = s.txAns := rfl
@[simp] theorem State.setLast_pending (s : State) (f : Bytes) : (s.setLast f).pending = s.pending := rfl

@[simp] theorem State.setFault_cfg (s : State) (b : BitVec 2) : (s.setFault b).cfg = s.cfg := rfl
@[simp] theorem State.setFault_engine (s : State) (b : BitVec 2) : (s.setFault b).engine = s.engine := rfl
@[simp] theorem State.setFault_q (s : State) (b : BitVec 2) : (s.setFault b).q = s.q := rfl
@[simp] theorem State.setFault_lastValid (s : State) (b : BitVec 2) : (s.setFault b).lastValid = s.lastValid := rfl
@[simp] theorem State.setFault_lastFrame (s : State) (b : BitVec 2) : (s.setFault b).lastFrame = s.lastFrame := rfl
@[simp] theorem State.setFault_rs (s : State) (b : BitVec 2) : (s.setFault b).rs = s.rs := rfl
@[simp] theorem State.setFault_reg (s : State) (b : BitVec 2) : (s.setFault b).reg = s.reg := rfl
@[simp] theorem State.setFault_fault (s : State) (b : BitVec 2) : (s.setFault b).fault = s.fault ||| b := rfl
@[simp] theorem State.setFault_out (s : State) (b : BitVec 2) : (s.setFault b).out = s.out := rfl
@[simp] theorem State.setFault_inp (s : State) (b : BitVec 2) : (s.setFault b).inp = s.inp := rfl
@[simp] theorem State.setFault_delivered (s : State) (b : BitVec 2) : (s.setFault b).delivered = s.delivered := rfl
@[simp] theorem State.setFault_status (s : State) (b : BitVec 2) : (s.setFault b).status = s.status := rfl
@[simp] theorem State.setFault_rxAns (s : State) (b : BitVec 2) : (s.setFault b).rxAns = s.rxAns := rfl
@[simp] theorem State.setFault_txAns (s : State) (b : BitVec 2) : (s.setFault b).txAns = s.txAns := rfl
@[simp] theorem State.setFault_pending (s : State) (b : BitVec 2) : (s.setFault b).pending = s.pending := rfl

@[simp] theorem State.setStatus_cfg (s : State) (st : Status) : (s.setStatus st).cfg = s.cfg := rfl
@[simp] theorem State.setStatus_engine (s : State) (st : Status) : (s.setStatus st).engine = s.engine := rfl
@[simp] theorem State.setStatus_q (s : State) (st : Status) : (s.setStatus st).q = s.q := rfl
@[simp] theorem State.setStatus_lastValid (s : State) (st : Status) : (s.setStatus st).lastValid = s.lastValid := rfl
@[simp] theorem State.setStatus_lastFrame (s : State) (st : Status) : (s.setStatus st).lastFrame = s.lastFrame := rfl
@[simp] theorem State.setStatus_rs (s : State) (st : Status) : (s.setStatus st).rs = s.rs := rfl
@[simp] theorem State.setStatus_reg (s : State) (st : Status) : (s.setStatus st).reg = s.reg := rfl
@[simp] theorem State.setStatus_fault (s : State) (st : Status) : (s.setStatus st).fault = s.fault := rfl
@[simp] theorem State.setStatus_out (s : State) (st : Status) : (s.setStatus st).out = s.out := rfl
@[simp] theorem State.setStatus_inp (s : State) (st : Status) : (s.setStatus st).inp = s.inp := rfl
@[simp] theorem State.setStatus_delivered (s : State) (st : Status) : (s.setStatus st).delivered = s.delivered := rfl
@[simp] theorem State.setStatus_status (s : State) (st : Status) : (s.setStatus st).status = some st := rfl
@[simp] theorem State.setStatus_rxAns (s : State) (st : Status) : (s.setStatus st).rxAns = s.rxAns := rfl
@[simp] theorem State.setStatus_txAns (s : State) (st : Status) : (s.setStatus st).txAns = s.txAns := rfl
@[simp] theorem State.setStatus_pending (s : State) (st : Status) : (s.setStatus st).pending = s.pending := rfl

@[simp] theorem State.dropTxAnswer_cfg (s : State) : s.dropTxAnswer.cfg = s.cfg := rfl
@[simp] theorem State.dropTxAnswer_engine (s : State) : s.dropTxAnswer.engine = s.engine := rfl
@[simp] theorem State.dropTxAnswer_q (s : State) : s.dropTxAnswer.q = s.q := rfl
@[simp] theorem State.dropTxAnswer_lastValid (s : State) : s.dropTxAnswer.lastValid = s.lastValid := rfl
@[simp] theorem State.dropTxAnswer_lastFrame (s : State) : s.dropTxAnswer.lastFrame = s.lastFrame := rfl
@[simp] theorem State.dropTxAnswer_rs (s : State) : s.dropTxAnswer.rs = s.rs := rfl
@[simp] theorem State.dropTxAnswer_reg (s : State) : s.dropTxAnswer.reg = s.reg := rfl
@[simp] theorem State.dropTxAnswer_fault (s : State) : s.dropTxAnswer.fault = s.fault := rfl
@[simp] theorem State.dropTxAnswer_out (s : State) : s.dropTxAnswer.out = s.out := rfl
@[simp] theorem State.dropTxAnswer_inp (s : State) : s.dropTxAnswer.inp = s.inp := rfl
@[simp] theorem State.dropTxAnswer_delivered (s : State) : s.dropTxAnswer.delivered = s.delivered := rfl
@[simp] theorem State.dropTxAnswer_status (s : State) : s.dropTxAnswer.status = s.status := rfl
@[simp] theorem State.dropTxAnswer_rxAns (s : State) : s.dropTxAnswer.rxAns = s.rxAns := rfl
@[simp] theorem State.dropTxAnswer_txAns (s : State) : s.dropTxAnswer.txAns = s.txAns.tail := rfl
@[simp] theorem State.dropTxAnswer_pending (s : State) : s.dropTxAnswer.pending = s.pending := rfl

@[simp] theorem State.extendOut_cfg (s : State) (f : Bytes) : (s.extendOut f).cfg = s.cfg := rfl
@[simp] theorem State.extendOut_engine (s : State) (f : Bytes) : (s.extendOut f).engine = s.engine := rfl
@[simp] theorem State.extendOut_q (s : State) (f : Bytes) : (s.extendOut f).q = s.q := rfl
@[simp] theorem State.extendOut_lastValid (s : State) (f : Bytes) : (s.extendOut f).lastValid = s.lastValid := rfl
@[simp] theorem State.extendOut_lastFrame (s : State) (f : Bytes) : (s.extendOut f).lastFrame = s.lastFrame := rfl
@[simp] theorem State.extendOut_rs (s : State) (f : Bytes) : (s.extendOut f).rs = s.rs := rfl
@[simp] theorem State.extendOut_reg (s : State) (f : Bytes) : (s.extendOut f).reg = s.reg := rfl
@[simp] theorem State.extendOut_fault (s : State) (f : Bytes) : (s.extendOut f).fault = s.fault := rfl
@[simp] theorem State.extendOut_out (s : State) (f : Bytes) : (s.extendOut f).out = s.out.extend f := rfl
@[simp] theorem State.extendOut_inp (s : State) (f : Bytes) : (s.extendOut f).inp = s.inp := rfl
@[simp] theorem State.extendOut_delivered (s : State) (f : Bytes) : (s.extendOut f).delivered = s.delivered := rfl
@[simp] theorem State.extendOut_status (s : State) (f : Bytes) : (s.extendOut f).status = s.status := rfl
@[simp] theorem State.extendOut_rxAns (s : State) (f : Bytes) : (s.extendOut f).rxAns = s.rxAns := rfl
@[simp] theorem State.extendOut_txAns (s : State) (f : Bytes) : (s.extendOut f).txAns = s.txAns := rfl
@[simp] theorem State.extendOut_pending (s : State) (f : Bytes) : (s.extendOut f).pending = s.pending := rfl

@[simp] theorem State.extendIn_cfg (s : State) (bs : Bytes) : (s.extendIn bs).cfg = s.cfg := rfl
@[simp] theorem State.extendIn_engine (s : State) (bs : Bytes) : (s.extendIn bs).engine = s.engine := rfl
@[simp] theorem State.extendIn_q (s : State) (bs : Bytes) : (s.extendIn bs).q = s.q := rfl
@[simp] theorem State.extendIn_lastValid (s : State) (bs : Bytes) : (s.extendIn bs).lastValid = s.lastValid := rfl
@[simp] theorem State.extendIn_lastFrame (s : State) (bs : Bytes) : (s.extendIn bs).lastFrame = s.lastFrame := rfl
@[simp] theorem State.extendIn_rs (s : State) (bs : Bytes) : (s.extendIn bs).rs = s.rs := rfl
@[simp] theorem State.extendIn_reg (s : State) (bs : Bytes) : (s.extendIn bs).reg = s.reg := rfl
@[simp] theorem State.extendIn_fault (s : State) (bs : Bytes) : (s.extendIn bs).fault = s.fault := rfl
@[simp] theorem State.extendIn_out (s : State) (bs : Bytes) : (s.extendIn bs).out = s.out := rfl
@[simp] theorem State.extendIn_inp (s : State) (bs : Bytes) : (s.extendIn bs).inp = s.inp.extend bs := rfl
@[simp] theorem State.extendIn_delivered (s : State) (bs : Bytes) : (s.extendIn bs).delivered = s.delivered := rfl
@[simp] theorem State.extendIn_status (s : State) (bs : Bytes) : (s.extendIn bs).status = s.status := rfl
@[simp] theorem State.extendIn_rxAns (s : State) (bs : Bytes) : (s.extendIn bs).rxAns = s.rxAns := rfl
@[simp] theorem State.extendIn_txAns (s : State) (bs : Bytes) : (s.extendIn bs).txAns = s.txAns := rfl
@[simp] theorem State.extendIn_pending (s : State) (bs : Bytes) : (s.extendIn bs).pending = s.pending := rfl

@[simp] theorem State.setRegRow_cfg (s : State) (k : Kind) (r : Registration) : (s.setRegRow k r).cfg = s.cfg := rfl
@[simp] theorem State.setRegRow_engine (s : State) (k : Kind) (r : Registration) : (s.setRegRow k r).engine = s.engine := rfl
@[simp] theorem State.setRegRow_q (s : State) (k : Kind) (r : Registration) : (s.setRegRow k r).q = s.q := rfl
@[simp] theorem State.setRegRow_lastValid (s : State) (k : Kind) (r : Registration) : (s.setRegRow k r).lastValid = s.lastValid := rfl
@[simp] theorem State.setRegRow_lastFrame (s : State) (k : Kind) (r : Registration) : (s.setRegRow k r).lastFrame = s.lastFrame := rfl
@[simp] theorem State.setRegRow_rs (s : State) (k : Kind) (r : Registration) : (s.setRegRow k r).rs = s.rs := rfl
@[simp] theorem State.setRegRow_reg (s : State) (k : Kind) (r : Registration) : (s.setRegRow k r).reg = s.reg.set k.toNat r k.isLt := rfl
@[simp] theorem State.setRegRow_fault (s : State) (k : Kind) (r : Registration) : (s.setRegRow k r).fault = s.fault := rfl
@[simp] theorem State.setRegRow_out (s : State) (k : Kind) (r : Registration) : (s.setRegRow k r).out = s.out := rfl
@[simp] theorem State.setRegRow_inp (s : State) (k : Kind) (r : Registration) : (s.setRegRow k r).inp = s.inp := rfl
@[simp] theorem State.setRegRow_delivered (s : State) (k : Kind) (r : Registration) : (s.setRegRow k r).delivered = s.delivered := rfl
@[simp] theorem State.setRegRow_status (s : State) (k : Kind) (r : Registration) : (s.setRegRow k r).status = s.status := rfl
@[simp] theorem State.setRegRow_rxAns (s : State) (k : Kind) (r : Registration) : (s.setRegRow k r).rxAns = s.rxAns := rfl
@[simp] theorem State.setRegRow_txAns (s : State) (k : Kind) (r : Registration) : (s.setRegRow k r).txAns = s.txAns := rfl
@[simp] theorem State.setRegRow_pending (s : State) (k : Kind) (r : Registration) : (s.setRegRow k r).pending = s.pending := rfl

@[simp] theorem State.deliver_cfg (s : State) (h : Handler) (e : Entry) : (s.deliver h e).cfg = s.cfg := rfl
@[simp] theorem State.deliver_engine (s : State) (h : Handler) (e : Entry) : (s.deliver h e).engine = s.engine := rfl
@[simp] theorem State.deliver_q (s : State) (h : Handler) (e : Entry) : (s.deliver h e).q = s.q := rfl
@[simp] theorem State.deliver_lastValid (s : State) (h : Handler) (e : Entry) : (s.deliver h e).lastValid = s.lastValid := rfl
@[simp] theorem State.deliver_lastFrame (s : State) (h : Handler) (e : Entry) : (s.deliver h e).lastFrame = s.lastFrame := rfl
@[simp] theorem State.deliver_rs (s : State) (h : Handler) (e : Entry) : (s.deliver h e).rs = s.rs := rfl
@[simp] theorem State.deliver_reg (s : State) (h : Handler) (e : Entry) : (s.deliver h e).reg = s.reg := rfl
@[simp] theorem State.deliver_fault (s : State) (h : Handler) (e : Entry) : (s.deliver h e).fault = s.fault := rfl
@[simp] theorem State.deliver_out (s : State) (h : Handler) (e : Entry) : (s.deliver h e).out = s.out := rfl
@[simp] theorem State.deliver_inp (s : State) (h : Handler) (e : Entry) : (s.deliver h e).inp = s.inp := rfl
@[simp] theorem State.deliver_delivered (s : State) (h : Handler) (e : Entry) : (s.deliver h e).delivered = s.delivered ++ [⟨h, e.ty, e.ctx, e.buf, s.out.top⟩] := rfl
@[simp] theorem State.deliver_status (s : State) (h : Handler) (e : Entry) : (s.deliver h e).status = s.status := rfl
@[simp] theorem State.deliver_rxAns (s : State) (h : Handler) (e : Entry) : (s.deliver h e).rxAns = s.rxAns := rfl
@[simp] theorem State.deliver_txAns (s : State) (h : Handler) (e : Entry) : (s.deliver h e).txAns = s.txAns := rfl
@[simp] theorem State.deliver_pending (s : State) (h : Handler) (e : Entry) : (s.deliver h e).pending = s.pending := rfl

@[simp] theorem State.raiseTransportFailure_cfg (s : State) : s.raiseTransportFailure.cfg = s.cfg := rfl
@[simp] theorem State.raiseTransportFailure_engine (s : State) : s.raiseTransportFailure.engine = s.engine := rfl
@[simp] theorem State.raiseTransportFailure_q (s : State) : s.raiseTransportFailure.q = s.q := rfl
@[simp] theorem State.raiseTransportFailure_lastValid (s : State) : s.raiseTransportFailure.lastValid = s.lastValid := rfl
@[simp] theorem State.raiseTransportFailure_lastFrame (s : State) : s.raiseTransportFailure.lastFrame = s.lastFrame := rfl
@[simp] theorem State.raiseTransportFailure_rs (s : State) : s.raiseTransportFailure.rs = s.rs := rfl
@[simp] theorem State.raiseTransportFailure_reg (s : State) : s.raiseTransportFailure.reg = s.reg := rfl
@[simp] theorem State.raiseTransportFailure_fault (s : State) : s.raiseTransportFailure.fault = s.fault ||| ioErrBit := rfl
@[simp] theorem State.raiseTransportFailure_out (s : State) : s.raiseTransportFailure.out = s.out := rfl
@[simp] theorem State.raiseTransportFailure_inp (s : State) : s.raiseTransportFailure.inp = s.inp := rfl
@[simp] theorem State.raiseTransportFailure_delivered (s : State) : s.raiseTransportFailure.delivered = s.delivered := rfl
@[simp] theorem State.raiseTransportFailure_status (s : State) : s.raiseTransportFailure.status = some .ioFail := rfl
@[simp] theorem State.raiseTransportFailure_rxAns (s : State) : s.raiseTransportFailure.rxAns = s.rxAns := rfl
@[simp] theorem State.raiseTransportFailure_txAns (s : State) : s.raiseTransportFailure.txAns = s.txAns := rfl
@[simp] theorem State.raiseTransportFailure_pending (s : State) : s.raiseTransportFailure.pending = s.pending := rfl

@[simp] theorem State.raiseReassemblyOverflow_cfg (s : State) : s.raiseReassemblyOverflow.cfg = s.cfg := rfl
@[simp] theorem State.raiseReassemblyOverflow_engine (s : State) : s.raiseReassemblyOverflow.engine = s.engine := rfl
@[simp] theorem State.raiseReassemblyOverflow_q (s : State) : s.raiseReassemblyOverflow.q = s.q := rfl
@[simp] theorem State.raiseReassemblyOverflow_lastValid (s : State) : s.raiseReassemblyOverflow.lastValid = s.lastValid := rfl
@[simp] theorem State.raiseReassemblyOverflow_lastFrame (s : State) : s.raiseReassemblyOverflow.lastFrame = s.lastFrame := rfl
@[simp] theorem State.raiseReassemblyOverflow_rs (s : State) : s.raiseReassemblyOverflow.rs = s.rs := rfl
@[simp] theorem State.raiseReassemblyOverflow_reg (s : State) : s.raiseReassemblyOverflow.reg = s.reg := rfl
@[simp] theorem State.raiseReassemblyOverflow_fault (s : State) : s.raiseReassemblyOverflow.fault = s.fault ||| rsOvfBit := rfl
@[simp] theorem State.raiseReassemblyOverflow_out (s : State) : s.raiseReassemblyOverflow.out = s.out := rfl
@[simp] theorem State.raiseReassemblyOverflow_inp (s : State) : s.raiseReassemblyOverflow.inp = s.inp := rfl
@[simp] theorem State.raiseReassemblyOverflow_delivered (s : State) : s.raiseReassemblyOverflow.delivered = s.delivered := rfl
@[simp] theorem State.raiseReassemblyOverflow_status (s : State) : s.raiseReassemblyOverflow.status = s.status := rfl
@[simp] theorem State.raiseReassemblyOverflow_rxAns (s : State) : s.raiseReassemblyOverflow.rxAns = s.rxAns := rfl
@[simp] theorem State.raiseReassemblyOverflow_txAns (s : State) : s.raiseReassemblyOverflow.txAns = s.txAns := rfl
@[simp] theorem State.raiseReassemblyOverflow_pending (s : State) : s.raiseReassemblyOverflow.pending = s.pending := rfl

end Sys2Proof.Machine
end

