-- ==== Sys2Proof/Laws/Ops.lean ====
section
/-! SUPPORT. One lemma per shared operation: everything it can do, said once. -/

namespace Sys2Proof.Machine

/-- Everything `Send` can do (R107, R176). -/
theorem State.send_cases (s : State) (f : Bytes) :
    (s.txReady = true ∧ s.send f = .ok ((s.dropTxAnswer.extendOut f).setLast f)) ∨
      (s.txReady = false ∧ s.send f = .failed s.dropTxAnswer.raiseTransportFailure) := by
  cases h : s.txReady <;> simp [State.send, h]

theorem State.send_of_ready {s : State} (h : s.txReady = true) (f : Bytes) :
    s.send f = .ok ((s.dropTxAnswer.extendOut f).setLast f) := by simp [State.send, h]

theorem State.send_of_not_ready {s : State} (h : s.txReady = false) (f : Bytes) :
    s.send f = .failed s.dropTxAnswer.raiseTransportFailure := by simp [State.send, h]

@[simp] theorem Sent.andThen_ok (s : State) (k : State → State) : (Sent.ok s).andThen k = .ok (k s) := rfl

@[simp] theorem Sent.andThen_failed (s : State) (k : State → State) : (Sent.failed s).andThen k = .failed s := rfl

@[simp] theorem Sent.toOutcome_ok (s : State) : (Sent.ok s).toOutcome = .next s := rfl

@[simp] theorem Sent.toOutcome_failed (s : State) : (Sent.failed s).toOutcome = .next s := rfl

@[simp] theorem finishTick_ok (s : State) : finishTick (.ok s) = s.endTick.toOutcome := rfl

@[simp] theorem finishTick_failed (s : State) : finishTick (.failed s) = .next s := rfl

/-- A finished operation answers a next state. -/
theorem Sent.toOutcome_runs (r : Sent) : ∃ t, r.toOutcome = .next t := by cases r <;> exact ⟨_, rfl⟩

/-- A tick answers a next state, whatever its row left. -/
theorem finishTick_runs (r : Sent) : ∃ t, finishTick r = .next t := by
  cases r with
  | ok s => exact s.endTick.toOutcome_runs
  | failed s => exact ⟨s, rfl⟩

/-- A tick that does not end in `Idle` does not flush (R154). -/
theorem State.endTick_of_busy {s : State} (h : s.engine ≠ .idle) : s.endTick = .ok (s.setStatus .ok) := by
  simp [State.endTick, h]

/-- A tick that ends in `Idle` with nothing in the store has nothing to flush (R155). -/
theorem State.endTick_of_empty {s : State} (h : s.rs = []) : s.endTick = .ok (s.setStatus .ok) := by
  simp [State.endTick, State.idleFlush, h, flushEntries]

/-- A tick that ends in `Idle` flushes (R154). -/
theorem State.endTick_of_idle {s : State} (h : s.engine = .idle) :
    s.endTick = s.idleFlush.andThen fun s' => s'.setStatus .ok := by
  simp [State.endTick, h]

/-- What one entry of the store does to the flush (R155): the flush goes on with the rest of the entries, or stops
because the entry's PONG failed. -/
theorem flushEntries_cons_cases (e : Entry) (es : List Entry) (s : State) :
    (∃ h, s.regRow (kind e.ty) = .user h ∧
        flushEntries (e :: es) s = flushEntries es ((s.deliver h e).setRs es)) ∨
      (s.regRow (kind e.ty) = .autoPong ∧ s.txReady = true ∧
        flushEntries (e :: es) s = flushEntries es
          (((s.dropTxAnswer.extendOut (pongFrame s.cfg e.ctx)).setLast (pongFrame s.cfg e.ctx)).setRs es)) ∨
      (s.regRow (kind e.ty) = .autoPong ∧ s.txReady = false ∧
        flushEntries (e :: es) s = .failed s.dropTxAnswer.raiseTransportFailure) ∨
      (s.regRow (kind e.ty) = .unregistered ∧ flushEntries (e :: es) s = flushEntries es (s.setRs es)) := by
  cases hr : s.regRow (kind e.ty) with
  | user h => exact .inl ⟨h, rfl, by simp [flushEntries, hr]⟩
  | unregistered => exact .inr (.inr (.inr ⟨rfl, by simp [flushEntries, hr]⟩))
  | autoPong =>
    rcases s.send_cases (pongFrame s.cfg e.ctx) with ⟨ht, h⟩ | ⟨ht, h⟩
    · exact .inr (.inl ⟨rfl, ht, by simp [flushEntries, hr, h]⟩)
    · exact .inr (.inr (.inl ⟨rfl, ht, by simp [flushEntries, hr, h]⟩))

/-- A bounded capacity is exceeded by more than it holds; an unbounded one never. -/
theorem exceeds_eq_false {n : Nat} {cap : Option Nat} : exceeds n cap = false ↔ ∀ c, cap = some c → n ≤ c := by
  cases cap <;> simp [exceeds]

/-- No entry of a key. -/
theorem find_hasKey_none {t c : Byte} {rs : List Entry} (h : ∀ e ∈ rs, ¬(e.ty = t ∧ e.ctx = c)) :
    rs.find? (Entry.hasKey t c) = none := by
  rw [List.find?_eq_none]
  intro e he
  simpa [Entry.hasKey] using h e he

/-- The one entry of a key. -/
theorem find_hasKey_some {t c : Byte} {pre post : List Entry} {e : Entry} (h1 : e.ty = t) (h2 : e.ctx = c)
    (h : ∀ e' ∈ pre ++ post, ¬(e'.ty = t ∧ e'.ctx = c)) :
    (pre ++ e :: post).find? (Entry.hasKey t c) = some e := by
  rw [List.find?_append, find_hasKey_none fun e he => h e (by simp [he])]
  simp [Entry.hasKey, h1, h2]

/-- Entries of other keys are not updated. -/
theorem updateEntry_of_fresh {t c : Byte} (g : Bytes → Bytes) {rs : List Entry}
    (h : ∀ e ∈ rs, ¬(e.ty = t ∧ e.ctx = c)) : updateEntry t c g rs = rs := by
  unfold updateEntry
  conv => rhs; rw [← List.map_id rs]
  apply List.map_congr_left
  intro a ha
  rw [if_neg]
  · rfl
  · simpa [Entry.hasKey] using h a ha

/-- The one entry of a key is updated in place. -/
theorem updateEntry_one {t c : Byte} (g : Bytes → Bytes) {pre post : List Entry} {e : Entry} (h1 : e.ty = t)
    (h2 : e.ctx = c) (h : ∀ e' ∈ pre ++ post, ¬(e'.ty = t ∧ e'.ctx = c)) :
    updateEntry t c g (pre ++ e :: post) = pre ++ { e with buf := g e.buf } :: post := by
  have hpre := updateEntry_of_fresh g fun e he => h e (List.mem_append_left _ he)
  have hpost := updateEntry_of_fresh g fun e he => h e (List.mem_append_right _ he)
  unfold updateEntry at *
  rw [List.map_append, hpre, List.map_cons, hpost]
  simp [Entry.hasKey, h1, h2]

/-- An update keeps the keys and their order. -/
theorem updateEntry_keys (t c : Byte) (g : Bytes → Bytes) (rs : List Entry) :
    (updateEntry t c g rs).map (fun e => (e.ty, e.ctx)) = rs.map fun e => (e.ty, e.ctx) := by
  unfold updateEntry
  rw [List.map_map]
  apply List.map_congr_left
  intro a _
  simp
  split <;> simp

/-- Everything `RsAppend` can do (R150, R178). -/
theorem State.rsAppend_cases (s : State) (t c : Byte) (b : Bytes) :
    (∃ e, s.rs.find? (Entry.hasKey t c) = some e ∧
        exceeds (e.buf.length + b.length) s.cfg.rsEntryBytes = false ∧
        s.rsAppend t c b = s.setRs (updateEntry t c (· ++ b) s.rs)) ∨
      (s.rs.find? (Entry.hasKey t c) = none ∧ s.cfg.rsEntries ≠ some s.rs.length ∧
        exceeds b.length s.cfg.rsEntryBytes = false ∧ s.rsAppend t c b = s.setRs (s.rs ++ [⟨t, c, b⟩])) ∨
      s.rsAppend t c b = s.raiseReassemblyOverflow := by
  unfold State.rsAppend
  split
  · next e he =>
    split
    · exact .inr (.inr rfl)
    · next h => exact .inl ⟨e, he, by simpa using h, rfl⟩
  · next hn =>
    split
    · exact .inr (.inr rfl)
    · next h =>
      exact .inr (.inl ⟨hn, fun h' => h (.inl h'), by simpa using fun h' => h (.inr h'), rfl⟩)

/-- Everything recording a marker can do (R151, R178). -/
theorem State.rsSetMarker_cases (s : State) (t c : Byte) :
    (∃ e, s.rs.find? (Entry.hasKey t c) = some e ∧
        s.rsSetMarker t c = s.setRs (updateEntry t c (fun _ => [s.cfg.marker]) s.rs)) ∨
      (s.rs.find? (Entry.hasKey t c) = none ∧ s.cfg.rsEntries ≠ some s.rs.length ∧
        s.rsSetMarker t c = s.setRs (s.rs ++ [⟨t, c, [s.cfg.marker]⟩])) ∨
      s.rsSetMarker t c = s.raiseReassemblyOverflow := by
  unfold State.rsSetMarker
  split
  · next e he => exact .inl ⟨e, he, rfl⟩
  · next hn =>
    split
    · exact .inr (.inr rfl)
    · next h => exact .inr (.inl ⟨hn, h, rfl⟩)

/-- An inbound frame of peer origin runs its row if its checksum is right, else it is rejected (R106). -/
theorem tickPeerFrame_cases (r : KindRow) (f : Frame) (row : State → Sent) (s : State) :
    (frameValid (peerType s.cfg r) f = true ∧ tickPeerFrame r f row s = finishTick (row s)) ∨
      (frameValid (peerType s.cfg r) f = false ∧
        tickPeerFrame r f row s = finishTick (s.badChecksum (peerType s.cfg r) f)) := by
  cases h : frameValid (peerType s.cfg r) f <;> simp [tickPeerFrame, h]

/-- Everything an inbound NOOP can do (R121, R122, R134). -/
theorem noopRow_cases (s : State) :
    (s.q = [] ∧ noopRow s = s.send (noopFrame s.cfg)) ∨
      (∃ h rest, s.q = h :: rest ∧ s.engine = .idle ∧
        noopRow s = (s.send (startFrame s.cfg h)).andThen fun s' => s'.setEngine .awaitStartAck) ∨
      (s.q ≠ [] ∧ s.engine ≠ .idle ∧ noopRow s = .ok s) := by
  cases hq : s.q with
  | nil => exact .inl ⟨rfl, by simp [noopRow, hq]⟩
  | cons h rest =>
    by_cases he : s.engine = .idle
    · exact .inr (.inl ⟨h, rest, rfl, he, by simp [noopRow, hq, he]⟩)
    · exact .inr (.inr ⟨by simp, he, by simp [noopRow, hq, he]⟩)

/-- Everything an inbound ACK can do (R130 to R133, R135). -/
theorem ackRow_cases (s : State) :
    (s.engine = .idle ∧ ackRow s = s.send (noopFrame s.cfg)) ∨
      (s.engine = .awaitStartAck ∧ ackRow s = .ok (s.setEngine .sending)) ∨
      (∃ h rest, s.engine = .sending ∧ s.q = h :: rest ∧ 0 < h.rem ∧
        ackRow s = (s.send (dataFrame s.cfg h)).andThen fun s' => s'.setQ (h.advance s.cfg :: rest)) ∨
      (∃ h rest, s.engine = .sending ∧ s.q = h :: rest ∧ h.rem = 0 ∧
        ackRow s = (s.send (endFrame s.cfg h)).andThen fun s' => (s'.setQ rest).setEngine .idle) ∨
      (s.engine = .sending ∧ s.q = [] ∧ ackRow s = .ok s) ∨
      (s.engine = .receiving ∧ ackRow s = .ok s) := by
  cases he : s.engine with
  | idle => exact .inl ⟨rfl, by simp [ackRow, he]⟩
  | awaitStartAck => exact .inr (.inl ⟨rfl, by simp [ackRow, he]⟩)
  | receiving => exact .inr (.inr (.inr (.inr (.inr ⟨rfl, by simp [ackRow, he]⟩))))
  | sending =>
    cases hq : s.q with
    | nil => exact .inr (.inr (.inr (.inr (.inl ⟨rfl, rfl, by simp [ackRow, he, sendingAckRow, hq]⟩))))
    | cons h rest =>
      by_cases hr : 0 < h.rem
      · exact .inr (.inr (.inl ⟨h, rest, rfl, rfl, hr, by
          simp [ackRow, he, sendingAckRow, hq, Transfer.moreRemains, hr]⟩))
      · exact .inr (.inr (.inr (.inl ⟨h, rest, rfl, rfl, by omega, by
          simp [ackRow, he, sendingAckRow, hq, Transfer.moreRemains, hr]⟩)))

/-- Everything an inbound REJECT can do (R127). -/
theorem rejectRow_cases (s : State) :
    (s.lastValid = true ∧ rejectRow s = s.send s.lastFrame) ∨ (s.lastValid = false ∧ rejectRow s = .ok s) := by
  cases h : s.lastValid <;> simp [rejectRow, h]

/-- Everything an inbound data frame can do (R125, R126). -/
theorem dataRow_cases (r : KindRow) (f : Frame) (s : State) :
    (s.engine = .receiving ∧ 9 ≤ f.length ∧
        dataRow r f s = (s.send (ackFrame s.cfg f)).andThen fun s' => s'.rsAppend (peerType s'.cfg r) f.ctx f.body) ∨
      ((s.engine ≠ .receiving ∨ f.length < 9) ∧ dataRow r f s = .ok s) := by
  by_cases h : s.engine = .receiving ∧ 9 ≤ f.length
  · exact .inl ⟨h.1, h.2, by simp [dataRow, h]⟩
  · refine .inr ⟨?_, by simp [dataRow, h]⟩
    by_cases he : s.engine = .receiving
    · exact .inr (Nat.lt_of_not_le fun h' => h ⟨he, h'⟩)
    · exact .inl he

/-- The first so many effects are that many, or all of them, and their deliveries are the first of the deliveries. -/
theorem firstEffects_spec (size k pos n : Nat) (ds : List Delivery) :
    (firstEffects size k pos n ds).1 ≤ n ∧
      (firstEffects size k pos n ds).2 = ds.take (firstEffects size k pos n ds).2.length ∧
      (firstEffects size k pos n ds).1 + (firstEffects size k pos n ds).2.length = min k (n + ds.length) := by
  induction k generalizing pos n ds with
  | zero => simp [firstEffects]
  | succ k ih =>
    cases n with
    | zero =>
      cases ds with
      | nil => simp [firstEffects]
      | cons d ds =>
        obtain ⟨h1, h2, h3⟩ := ih pos 0 ds
        refine ⟨by simp [firstEffects], ?_, ?_⟩
        · simp only [firstEffects, List.length_cons, List.take_succ_cons]
          rw [← h2]
        · simp only [firstEffects, List.length_cons]
          omega
    | succ n =>
      cases ds with
      | nil =>
        obtain ⟨h1, h2, h3⟩ := ih (pos + size) n []
        simp only [firstEffects, List.length_nil, List.take_nil]
        simp only [List.take_nil] at h2
        rw [h2] at h3
        simp only [List.length_nil] at h3
        refine ⟨by omega, trivial, by omega⟩
      | cons d ds =>
        simp only [firstEffects]
        split
        · obtain ⟨h1, h2, h3⟩ := ih pos (n + 1) ds
          refine ⟨h1, ?_, ?_⟩
          · simp only [List.length_cons, List.take_succ_cons]
            rw [← h2]
          · simp only [List.length_cons]
            omega
        · obtain ⟨h1, h2, h3⟩ := ih (pos + size) n (d :: ds)
          refine ⟨by simpa using h1, h2, ?_⟩
          simp only [List.length_cons] at h3 ⊢
          omega

/-- The order in which the first so many effects stand (R41(b), R191): a delivery that stands was made when `OUT` held no
more than the frames that stand, one that does not when it held all of them. -/
theorem firstEffects_order (size k pos n : Nat) (ds : List Delivery)
    (hd : ∀ d ∈ ds, ∃ i, i ≤ n ∧ d.outLen = pos + i * size) (hs : ds.Pairwise fun d e => d.outLen ≤ e.outLen) :
    (∀ d ∈ (firstEffects size k pos n ds).2, d.outLen ≤ pos + (firstEffects size k pos n ds).1 * size) ∧
      ∀ d ∈ ds.drop (firstEffects size k pos n ds).2.length,
        pos + (firstEffects size k pos n ds).1 * size ≤ d.outLen := by
  induction k generalizing pos n ds with
  | zero =>
    refine ⟨by simp [firstEffects], fun d h => ?_⟩
    obtain ⟨i, _, hi⟩ := hd d (by simpa [firstEffects] using h)
    simp [firstEffects, hi]
  | succ k ih =>
    cases ds with
    | nil => cases n <;> simp [firstEffects]
    | cons d ds =>
      have hds := (List.pairwise_cons.mp hs).1
      have hs' := (List.pairwise_cons.mp hs).2
      have first : ∀ (m : Nat) (kept : List Delivery), d.outLen ≤ pos →
          (∀ x ∈ kept, x.outLen ≤ pos + m * size) → ∀ x ∈ d :: kept, x.outLen ≤ pos + m * size := by
        intro m kept hle hk x hx
        rcases List.mem_cons.mp hx with rfl | hx
        · omega
        · exact hk x hx
      cases n with
      | zero =>
        obtain ⟨i1, i2⟩ := ih pos 0 ds (fun x hx => hd x (by simp [hx])) hs'
        have z : (firstEffects size k pos 0 ds).1 = 0 := Nat.le_zero.mp (firstEffects_spec _ _ _ _ _).1
        rw [z] at i1 i2
        obtain ⟨i, hi, he⟩ := hd d (by simp)
        obtain rfl : i = 0 := by omega
        simp only [firstEffects, List.length_cons, List.drop_succ_cons]
        exact ⟨first 0 _ (by omega) i1, i2⟩
      | succ n =>
        simp only [firstEffects]
        split
        · next hle =>
          obtain ⟨i1, i2⟩ := ih pos (n + 1) ds (fun x hx => hd x (by simp [hx])) hs'
          simp only [List.length_cons, List.drop_succ_cons]
          exact ⟨first _ _ hle i1, i2⟩
        · next hgt =>
          have later : ∀ x ∈ d :: ds, ∃ i, i ≤ n ∧ x.outLen = pos + size + i * size := by
            intro x hx
            obtain ⟨i, hi, he⟩ := hd x hx
            have : d.outLen ≤ x.outLen := by
              rcases List.mem_cons.mp hx with rfl | hx
              · exact Nat.le_refl _
              · exact hds x hx
            cases i with
            | zero => omega
            | succ i => exact ⟨i, by omega, by rw [he, Nat.succ_mul]; omega⟩
          have e : ∀ m, pos + (m + 1) * size = pos + size + m * size := fun m => by rw [Nat.succ_mul]; omega
          simp only [e]
          exact ih (pos + size) n (d :: ds) later hs

/-- Everything `submit` can do (R90, R91). -/
theorem execSubmit_cases (payload : Bytes) (ty ctx : Byte) (s : State) :
    ((kind ty).toNat < 7 ∧ execSubmit payload ty ctx s = .next (s.setStatus .refusedType)) ∨
      (7 ≤ (kind ty).toNat ∧ maxPayload < payload.length ∧
        execSubmit payload ty ctx s = .next (s.setStatus .refusedLen)) ∨
      (7 ≤ (kind ty).toNat ∧ payload.length ≤ maxPayload ∧ s.cfg.queueDepth = some s.q.length ∧
        execSubmit payload ty ctx s = .next (s.setStatus .refusedFull)) ∨
      (7 ≤ (kind ty).toNat ∧ payload.length ≤ maxPayload ∧ s.cfg.queueDepth ≠ some s.q.length ∧
        execSubmit payload ty ctx s =
          .next ((s.setQ (s.q ++ [newTransfer payload ty ctx])).setStatus .ok)) := by
  unfold execSubmit
  split
  · next h => exact .inl ⟨h, rfl⟩
  · next h =>
    split
    · next h2 => exact .inr (.inl ⟨by omega, h2, rfl⟩)
    · next h2 =>
      split
      · next h3 => exact .inr (.inr (.inl ⟨by omega, by omega, h3, rfl⟩))
      · next h3 => exact .inr (.inr (.inr ⟨by omega, by omega, h3, rfl⟩))

end Sys2Proof.Machine
end

