-- ==== Sys2Proof/Laws/Flush.lean ====
section
/-! SUPPORT. The idle-flush: what it writes and hands over depends on the registry and the parameters only, and what it
leaves alone. -/

namespace Sys2Proof.Machine

@[simp] theorem State.pongFrames_setRs (s : State) (rs es : List Entry) :
    (s.setRs rs).pongFrames es = s.pongFrames es := rfl
@[simp] theorem State.pongFrames_deliver (s : State) (h : Handler) (e : Entry) (es : List Entry) :
    (s.deliver h e).pongFrames es = s.pongFrames es := rfl
@[simp] theorem State.pongFrames_setLast (s : State) (f : Bytes) (es : List Entry) :
    (s.setLast f).pongFrames es = s.pongFrames es := rfl
@[simp] theorem State.pongFrames_extendOut (s : State) (f : Bytes) (es : List Entry) :
    (s.extendOut f).pongFrames es = s.pongFrames es := rfl
@[simp] theorem State.pongFrames_dropTxAnswer (s : State) (es : List Entry) :
    s.dropTxAnswer.pongFrames es = s.pongFrames es := rfl
@[simp] theorem State.handedOver_setRs (s : State) (rs es : List Entry) :
    (s.setRs rs).handedOver es = s.handedOver es := rfl
@[simp] theorem State.handedOver_deliver (s : State) (h : Handler) (e : Entry) (es : List Entry) :
    (s.deliver h e).handedOver es = s.handedOver es := rfl
@[simp] theorem State.handedOver_setLast (s : State) (f : Bytes) (es : List Entry) :
    (s.setLast f).handedOver es = s.handedOver es := rfl
@[simp] theorem State.handedOver_extendOut (s : State) (f : Bytes) (es : List Entry) :
    (s.extendOut f).handedOver es = s.handedOver es := rfl
@[simp] theorem State.handedOver_dropTxAnswer (s : State) (es : List Entry) :
    s.dropTxAnswer.handedOver es = s.handedOver es := rfl

theorem State.pongFrames_cons_autoPong {s : State} {e : Entry} (h : s.regRow (kind e.ty) = .autoPong)
    (es : List Entry) : s.pongFrames (e :: es) = pongFrame s.cfg e.ctx :: s.pongFrames es := by
  simp [State.pongFrames, h]

theorem State.pongFrames_cons_other {s : State} {e : Entry} (h : s.regRow (kind e.ty) ≠ .autoPong)
    (es : List Entry) : s.pongFrames (e :: es) = s.pongFrames es := by
  simp [State.pongFrames, h]

theorem State.handedOver_cons_user {s : State} {e : Entry} {hd : Handler} (h : s.regRow (kind e.ty) = .user hd)
    (es : List Entry) : s.handedOver (e :: es) = (hd, e.ty, e.ctx, e.buf) :: s.handedOver es := by
  simp [State.handedOver, h]

theorem State.handedOver_cons_other {s : State} {e : Entry} (h : ∀ hd, s.regRow (kind e.ty) ≠ .user hd)
    (es : List Entry) : s.handedOver (e :: es) = s.handedOver es := by
  cases hr : s.regRow (kind e.ty) with
  | user hd => exact absurd hr (h hd)
  | autoPong => simp [State.handedOver, hr]
  | unregistered => simp [State.handedOver, hr]

/-- A transport that accepts every append is ready. -/
theorem State.txReady_of_linkUp {s : State} (h : s.linkUp) : s.txReady = true := by
  unfold State.txReady
  cases ht : s.txAns with
  | nil => rfl
  | cons b l => exact h b (by simp [ht])

/-- What the flush leaves alone, however it ends. -/
structure SameBesideFlush (s t : State) : Prop where
  cfg : t.cfg = s.cfg
  engine : t.engine = s.engine
  q : t.q = s.q
  reg : t.reg = s.reg
  inp : t.inp = s.inp
  rxAns : t.rxAns = s.rxAns
  pending : t.pending = s.pending

theorem SameBesideFlush.trans {s t u : State} (h : SameBesideFlush s t) (g : SameBesideFlush t u) :
    SameBesideFlush s u :=
  ⟨g.cfg.trans h.cfg, g.engine.trans h.engine, g.q.trans h.q, g.reg.trans h.reg, g.inp.trans h.inp,
    g.rxAns.trans h.rxAns, g.pending.trans h.pending⟩

/-- The flush touches only `RS`, `LAST`, `OUT`, the deliveries, and the answers it uses up, and `FAULT` and the status if
a PONG fails (R155, R180(c)). -/
theorem flushEntries_frame (es : List Entry) (s : State) :
    (∃ t, flushEntries es s = .ok t ∧ SameBesideFlush s t) ∨
      ∃ t, flushEntries es s = .failed t ∧ SameBesideFlush s t := by
  induction es generalizing s with
  | nil => exact .inl ⟨s, rfl, rfl, rfl, rfl, rfl, rfl, rfl, rfl⟩
  | cons e es ih =>
    have go : ∀ x : State, flushEntries (e :: es) s = flushEntries es x → SameBesideFlush s x →
        (∃ t, flushEntries (e :: es) s = .ok t ∧ SameBesideFlush s t) ∨
          ∃ t, flushEntries (e :: es) s = .failed t ∧ SameBesideFlush s t := by
      intro x he hx
      rw [he]
      rcases ih x with ⟨t, ht, h⟩ | ⟨t, ht, h⟩
      · exact .inl ⟨t, ht, hx.trans h⟩
      · exact .inr ⟨t, ht, hx.trans h⟩
    rcases flushEntries_cons_cases e es s with ⟨h, _, heq⟩ | ⟨_, _, heq⟩ | ⟨_, _, heq⟩ | ⟨_, heq⟩
    · exact go _ heq ⟨rfl, rfl, rfl, rfl, rfl, rfl, rfl⟩
    · exact go _ heq ⟨rfl, rfl, rfl, rfl, rfl, rfl, rfl⟩
    · exact .inr ⟨_, heq, rfl, rfl, rfl, rfl, rfl, rfl, rfl⟩
    · exact go _ heq ⟨rfl, rfl, rfl, rfl, rfl, rfl, rfl⟩

end Sys2Proof.Machine
end

