-- ==== Sys2Proof/Laws/PerInstr.lean ====
section
/-! SUPPORT. The per-instruction family FitsWire: what a well-formed instruction encodes to has the size the ports carry
(spec 20_memory.md R31 and R32, 30_encoding.md R50). -/

namespace Sys2Proof.Laws

/-- A chunk is at most `PACKET_SIZE` bytes long, a transmitted frame exactly `PACKET_SIZE`. -/
def FitsWire.fits (p : Params) : Presented → Prop
  | .command _ => True
  | .inbound raw => raw.length ≤ p.packetSize
  | .outbound f => f.length = p.packetSize

/-- For all legal parameters, a well-formed `i` encodes to a word its port carries. -/
def FitsWire.Statement (i : Instr) : Prop :=
  ∀ p : Params, p.legal → i.wellFormed p = true → FitsWire.fits p (encode p i)

theorem FitsWire.chunk {p : Params} (hp : p.legal) (t : Byte) {f : Frame}
    (hf : f.fits p = true ∨ f = Frame.syntheticNoop) : (chunkOf p t f).length ≤ p.packetSize := by
  have h9 := hp.1
  rcases hf with hf | rfl
  · simp only [Frame.fits, Bool.and_eq_true, decide_eq_true_eq] at hf
    have hb : f.body.length ≤ p.packetSize - 8 := hf.2
    unfold chunkOf
    split
    · simp
    · rw [List.length_append, frameBytes_length, zeros_length, Frame.length]
      omega
  · simp [chunkOf, Frame.syntheticNoop]

theorem FitsWire.rxOwnOrigin (k : Kind) (f : Frame) : FitsWire.Statement (.rxOwnOrigin k f) :=
  fun _ hp hw => FitsWire.chunk hp _ (.inl hw)

theorem FitsWire.rxNoop (f : Frame) : FitsWire.Statement (.rxNoop f) :=
  fun _ hp hw => FitsWire.chunk hp _ (by simpa [Instr.wellFormed] using hw)

theorem FitsWire.rxPing (f : Frame) : FitsWire.Statement (.rxPing f) :=
  fun _ hp hw => FitsWire.chunk hp _ (.inl hw)

theorem FitsWire.rxPong (f : Frame) : FitsWire.Statement (.rxPong f) :=
  fun _ hp hw => FitsWire.chunk hp _ (.inl hw)

theorem FitsWire.rxAck (f : Frame) : FitsWire.Statement (.rxAck f) :=
  fun _ hp hw => FitsWire.chunk hp _ (.inl hw)

theorem FitsWire.rxReject (f : Frame) : FitsWire.Statement (.rxReject f) :=
  fun _ hp hw => FitsWire.chunk hp _ (.inl hw)

theorem FitsWire.rxStart (f : Frame) : FitsWire.Statement (.rxStart f) :=
  fun _ hp hw => FitsWire.chunk hp _ (.inl hw)

theorem FitsWire.rxEnd (f : Frame) : FitsWire.Statement (.rxEnd f) :=
  fun _ hp hw => FitsWire.chunk hp _ (.inl hw)

theorem FitsWire.rxData0E (f : Frame) : FitsWire.Statement (.rxData0E f) :=
  fun _ hp hw => FitsWire.chunk hp _ (.inl hw)

theorem FitsWire.rxData10 (x : BitVec 3) (f : Frame) : FitsWire.Statement (.rxData10 x f) :=
  fun _ hp hw => FitsWire.chunk hp _ (.inl hw)

theorem FitsWire.rxData20 (x : BitVec 4) (f : Frame) : FitsWire.Statement (.rxData20 x f) :=
  fun _ hp hw => FitsWire.chunk hp _ (.inl hw)

theorem FitsWire.rxData40 (x : BitVec 5) (f : Frame) : FitsWire.Statement (.rxData40 x f) :=
  fun _ hp hw => FitsWire.chunk hp _ (.inl hw)

theorem FitsWire.rxData80 (x : BitVec 6) (f : Frame) : FitsWire.Statement (.rxData80 x f) :=
  fun _ hp hw => FitsWire.chunk hp _ (.inl hw)

theorem FitsWire.txNoop : FitsWire.Statement .txNoop :=
  fun p hp _ => encodeFrame_length p hp _ _ _ _

theorem FitsWire.txPing : FitsWire.Statement .txPing :=
  fun p hp _ => encodeFrame_length p hp _ _ _ _

theorem FitsWire.txPong (ctx : Byte) : FitsWire.Statement (.txPong ctx) :=
  fun p hp _ => encodeFrame_length p hp _ _ _ _

theorem FitsWire.txAck (seq ctx : Byte) : FitsWire.Statement (.txAck seq ctx) :=
  fun p hp _ => encodeFrame_length p hp _ _ _ _

theorem FitsWire.txReject (seq ctx ty : Byte) : FitsWire.Statement (.txReject seq ctx ty) :=
  fun p hp _ => encodeFrame_length p hp _ _ _ _

theorem FitsWire.txStart (seq ctx dt : Byte) (rem : BitVec 16) : FitsWire.Statement (.txStart seq ctx dt rem) :=
  fun p hp _ => encodeFrame_length p hp _ _ _ _

theorem FitsWire.txEnd (seq ctx : Byte) : FitsWire.Statement (.txEnd seq ctx) :=
  fun p hp _ => encodeFrame_length p hp _ _ _ _

theorem FitsWire.txData0F (seq ctx : Byte) (body : Bytes) : FitsWire.Statement (.txData0F seq ctx body) :=
  fun p hp _ => encodeFrame_length p hp _ _ _ _

theorem FitsWire.txData11 (x : BitVec 3) (seq ctx : Byte) (body : Bytes) : FitsWire.Statement (.txData11 x seq ctx body) :=
  fun p hp _ => encodeFrame_length p hp _ _ _ _

theorem FitsWire.txData21 (x : BitVec 4) (seq ctx : Byte) (body : Bytes) : FitsWire.Statement (.txData21 x seq ctx body) :=
  fun p hp _ => encodeFrame_length p hp _ _ _ _

theorem FitsWire.txData41 (x : BitVec 5) (seq ctx : Byte) (body : Bytes) : FitsWire.Statement (.txData41 x seq ctx body) :=
  fun p hp _ => encodeFrame_length p hp _ _ _ _

theorem FitsWire.txData81 (x : BitVec 6) (seq ctx : Byte) (body : Bytes) : FitsWire.Statement (.txData81 x seq ctx body) :=
  fun p hp _ => encodeFrame_length p hp _ _ _ _

theorem FitsWire.tick : FitsWire.Statement .tick :=
  fun _ _ _ => trivial

theorem FitsWire.submit (payload : Bytes) (ty ctx : Byte) : FitsWire.Statement (.submit payload ty ctx) :=
  fun _ _ _ => trivial

theorem FitsWire.register (ty : Byte) (handler : Handler) : FitsWire.Statement (.register ty handler) :=
  fun _ _ _ => trivial

theorem FitsWire.ping : FitsWire.Statement .ping :=
  fun _ _ _ => trivial

end Sys2Proof.Laws
end

