-- ==== Sys2Proof/Tests/Slice0.lean ====
section
/-! SUPPORT. Tests: ill-formed terms are refused, written words decode, one step per instruction, and for every obligation
with hypotheses a state and operands that meet them. Expected values are those of spec/95_test_vectors.md (V<n>) and of the
examples in the rules (R<n>), or are worked out by hand from the rules. -/

namespace Sys2Proof.Tests

open Sys2Proof Sys2Proof.Machine

/-! ### Configurations and states -/

/-- The vectors' parameters; the marker is any byte. -/
def p12 : Params := ⟨12, 1, 0xA5, none, none, none, none⟩

/-- The same block with the other parity, the peer. -/
def q12 : Params := ⟨12, 0, 0xA5, none, none, none, none⟩

def p9 : Params := ⟨9, 1, 0xA5, none, none, none, none⟩

def p10 : Params := ⟨10, 1, 0xA5, none, none, none, none⟩

/-- Reset with the vectors' parameters. -/
def idle : State := { State.reset with cfg := p12, lastFrame := zeros 12 }

/-- The transfer of R121 and R131. -/
def xfer : Transfer := ⟨[0xDE, 0xAD, 0xBE, 0xEF, 0x42], 0, 0x10, 7, 0⟩

def waiting : State := { idle with q := [xfer] }

def awaiting : State := { waiting with engine := .awaitStartAck }

def sending : State := { waiting with engine := .sending }

/-- Nothing of the head is left to send. -/
def ending : State := { sending with q := [{ xfer with cursor := 5, nextSeq := 2 }] }

def receiving : State := { idle with engine := .receiving }

def entry : Entry := ⟨0x10, 7, [0xDE, 0xAD, 0xBE, 0xEF, 0x42]⟩

/-- The reject frame of R127's example. -/
def rejectSent : Bytes := [0x09, 0, 7, 9, 0x17, 0, 0, 0, 0x10, 0, 0, 0]

def sentOne : State := { idle with lastValid := true, lastFrame := rejectSent, out := Memory.extend [] rejectSent }

/-- The next append fails. -/
def State.linkDown (s : State) : State := { s with txAns := [false] }

/-- A tick that reads a chunk. -/
def ticked (s : State) (raw : Bytes) : Host.Outcome State Fault Refusal := exec .tick { s with rxAns := .bytes raw }

/-- What a next state shows. -/
def look {α : Type} (g : State → α) (o : Host.Outcome State Fault Refusal) : Option α :=
  match o with
  | .next t => some (g t)
  | _ => none

/-- The bytes on `OUT` and `STATE`. -/
def wire (t : State) : Bytes × EngineState := (t.out.map Prod.snd, t.engine)

/-! Peer frames -/

def fNoop : Frame := ⟨0, 0, 0x08, 0, 0, 0, [], false⟩
def fPing : Frame := ⟨0, 0x33, 0x39, 0, 0, 0, [], false⟩
def fPong : Frame := ⟨0, 0, 0x0C, 0, 0, 0, [], false⟩
def fAck : Frame := ⟨0, 7, 0x09, 0, 0, 0, [], false⟩
def fReject : Frame := ⟨0, 7, 0x0F, 0, 0, 0, [0x09], false⟩
def fStart : Frame := ⟨0, 7, 0x13, 0, 0, 0, [0x10, 0, 5], false⟩
def fEnd : Frame := ⟨2, 7, 0x01, 0, 0, 0, [], false⟩
def fData : Frame := ⟨0, 7, 0x39, 0, 0, 0, [0xDE, 0xAD, 0xBE, 0xEF], false⟩
/-- `fData` with the checksum of V18. -/
def fBad : Frame := { fData with cks := 0xC6 }

/-! ### WellFormed: one ill-formed term per check -/

theorem test_wf_body_too_long : (Instr.rxPing { fPing with body := [1, 2, 3, 4, 5] }).wellFormed p12 = false := by decide
theorem test_wf_body_longest : (Instr.rxPing { fPing with body := [1, 2, 3, 4] }).wellFormed p12 = true := by decide
theorem test_wf_synthetic_only_noop : (Instr.rxAck Frame.syntheticNoop).wellFormed p12 = false := by decide
theorem test_wf_synthetic_fixed : (Instr.rxNoop { Frame.syntheticNoop with seq := 1 }).wellFormed p12 = false := by decide
theorem test_wf_synthetic_noop : (Instr.rxNoop Frame.syntheticNoop).wellFormed p12 = true := by decide
theorem test_wf_fragment_empty : (Instr.txData0F 0 0 []).wellFormed p12 = false := by decide
theorem test_wf_fragment_too_long : (Instr.txData11 0 0 0 [1, 2, 3, 4, 5]).wellFormed p12 = false := by decide
theorem test_wf_start_control_type : (Instr.txStart 0 0 0x0D 1).wellFormed p12 = false := by decide
theorem test_wf_start_peer_type : (Instr.txStart 0 0 0x10 1).wellFormed p12 = false := by decide
theorem test_wf_start_lost_low_byte : (Instr.txStart 0 0 0x11 0x0101).wellFormed p10 = false := by decide
theorem test_wf_register_foreign_token :
    (Instr.register 0x10 ⟨2⟩).wellFormed ⟨12, 1, 0, none, none, none, some 2⟩ = false ∧
      (Instr.register 0x10 ⟨1⟩).wellFormed ⟨12, 1, 0, none, none, none, some 2⟩ = true := by decide
theorem test_wf_start_lost_length : (Instr.txStart 0 0 0x11 0x0100).wellFormed p9 = false := by decide

/-! ### Decoding: a word written from the spec's encoding for every constructor -/

/-- V30, V31: own origin, whatever the checksum. -/
theorem test_word_rxOwnOrigin :
    decodeInbound p12 [0x01, 0, 0, 8, 9, 0, 0, 0, 0, 0, 0, 0] = .rxOwnOrigin 0 ⟨0, 0, 9, 0, 0, 0, [], false⟩ ∧
      decodeInbound p12 [0x11, 0, 7, 9, 0x1F, 0, 0, 0, 1, 0, 0, 0] =
        .rxOwnOrigin 8 ⟨0, 7, 0x1F, 0, 0, 0, [1], false⟩ := by decide
/-- V2, V19. -/
theorem test_word_rxNoop :
    decodeInbound p12 [0x00, 0, 0, 8, 8, 0, 0, 0, 0, 0, 0, 0] = .rxNoop fNoop ∧
      [[], [1, 2, 3], [0x10, 0, 0, 7, 0x17, 0, 0, 0, 0, 0, 0, 0], [0x10, 0, 0, 0x0D, 0, 0, 0, 0, 0, 0, 0, 0]].all
        (fun raw => decodeInbound p12 raw == .rxNoop Frame.syntheticNoop) = true := by decide
theorem test_word_rxPing : decodeInbound p12 [0x02, 0, 0x33, 8, 0x39, 0, 0, 0, 0, 0, 0, 0] = .rxPing fPing := by decide
theorem test_word_rxPong : decodeInbound p12 [0x04, 0, 0, 8, 0x0C, 0, 0, 0, 0, 0, 0, 0] = .rxPong fPong := by decide
theorem test_word_rxAck : decodeInbound p12 [0x06, 0, 7, 8, 9, 0, 0, 0, 0, 0, 0, 0] = .rxAck fAck := by decide
theorem test_word_rxReject :
    decodeInbound p12 [0x08, 0, 7, 9, 0x0F, 0, 0, 0, 0x09, 0, 0, 0] = .rxReject fReject := by decide
theorem test_word_rxStart :
    decodeInbound p12 [0x0A, 0, 7, 0x0B, 0x13, 0, 0, 0, 0x10, 0, 5, 0] = .rxStart fStart := by decide
theorem test_word_rxEnd : decodeInbound p12 [0x0C, 2, 7, 8, 1, 0, 0, 0, 0, 0, 0, 0] = .rxEnd fEnd := by decide
/-- V11. -/
theorem test_word_rxData0E :
    decodeInbound p12 [0x0E, 0, 0, 9, 7, 0, 0, 0, 0, 0, 0, 0] = .rxData0E ⟨0, 0, 7, 0, 0, 0, [0], false⟩ := by decide
/-- V16: padding is not read. V17: reserved bytes are. -/
theorem test_word_rxData10 :
    decodeInbound p12 [0x10, 0, 7, 9, 0x4B, 0, 0, 0, 0x55, 0, 0xFF, 0] =
        .rxData10 0 ⟨0, 7, 0x4B, 0, 0, 0, [0x55], false⟩ ∧
      decodeInbound p12 [0x10, 0, 7, 9, 0x96, 0xAA, 0xBB, 0xCC, 0x55, 0, 0, 0] =
        .rxData10 0 ⟨0, 7, 0x96, 0xAA, 0xBB, 0xCC, [0x55], false⟩ := by decide
/-- `001xxxx0` with x = 1111. -/
theorem test_word_rxData20 :
    decodeInbound p12 [0x3E, 1, 2, 9, 0x6E, 0, 0, 0, 0x5A, 0, 0, 0] =
      .rxData20 0xF ⟨1, 2, 0x6E, 0, 0, 0, [0x5A], false⟩ := by decide
/-- `01xxxxx0` with x = 01001. -/
theorem test_word_rxData40 :
    decodeInbound p12 [0x52, 0, 0, 8, 0x5A, 0, 0, 0, 0, 0, 0, 0] =
      .rxData40 9 ⟨0, 0, 0x5A, 0, 0, 0, [], false⟩ := by decide
/-- V10: `1xxxxxx0` with x = 111111. -/
theorem test_word_rxData80 :
    decodeInbound p12 [0xFE, 0x80, 1, 8, 0x77, 0, 0, 0, 0, 0, 0, 0] =
      .rxData80 0x3F ⟨0x80, 1, 0x77, 0, 0, 0, [], false⟩ := by decide
/-- R72: with the other parity the odd codes are the peer's. -/
theorem test_word_other_parity :
    decodeInbound q12 [0x01, 0, 0, 8, 9, 0, 0, 0] = .rxNoop ⟨0, 0, 9, 0, 0, 0, [], false⟩ ∧
      decodeInbound q12 [0x10, 0, 0, 8, 0x18, 0, 0, 0] = .rxOwnOrigin 8 ⟨0, 0, 0x18, 0, 0, 0, [], false⟩ := by decide
/-- V1. -/
theorem test_word_txNoop : decodeOutbound p12 [0x01, 0, 0, 8, 9, 0, 0, 0, 0, 0, 0, 0] = .ok .txNoop := by decide
theorem test_word_txPing : decodeOutbound p12 [0x03, 0, 0, 8, 0x0B, 0, 0, 0, 0, 0, 0, 0] = .ok .txPing := by decide
theorem test_word_txPong :
    decodeOutbound p12 [0x05, 0, 0x33, 8, 0x3E, 0, 0, 0, 0, 0, 0, 0] = .ok (.txPong 0x33) := by decide
/-- V3. -/
theorem test_word_txAck : decodeOutbound p12 [0x07, 5, 9, 8, 3, 0, 0, 0, 0, 0, 0, 0] = .ok (.txAck 5 9) := by decide
/-- V4. -/
theorem test_word_txReject :
    decodeOutbound p12 [0x09, 5, 9, 9, 0x1C, 0, 0, 0, 0x10, 0, 0, 0] = .ok (.txReject 5 9 0x10) := by decide
/-- V7; V13 with `PACKET_SIZE = 9`; with 10 bytes the high length byte fits. -/
theorem test_word_txStart :
    decodeOutbound p12 [0x0B, 0, 7, 0x0B, 0x13, 0, 0, 0, 0x11, 0, 5, 0] = .ok (.txStart 0 7 0x11 5) ∧
      decodeOutbound p9 [0x0B, 0, 7, 9, 0x14, 0, 0, 0, 0x11] = .ok (.txStart 0 7 0x11 0) ∧
      decodeOutbound p10 [0x0B, 0, 7, 0x0A, 0x16, 0, 0, 0, 0x11, 1] = .ok (.txStart 0 7 0x11 0x0100) := by decide
/-- V8. -/
theorem test_word_txEnd : decodeOutbound p12 [0x0D, 2, 7, 8, 0, 0, 0, 0, 0, 0, 0, 0] = .ok (.txEnd 2 7) := by decide
theorem test_word_txData0F :
    decodeOutbound p12 [0x0F, 0, 0, 9, 6, 0, 0, 0, 0, 0, 0, 0] = .ok (.txData0F 0 0 [0]) := by decide
/-- V5. -/
theorem test_word_txData11 :
    decodeOutbound p12 [0x11, 0, 7, 0x0C, 0x38, 0, 0, 0, 0xDE, 0xAD, 0xBE, 0xEF] =
      .ok (.txData11 0 0 7 [0xDE, 0xAD, 0xBE, 0xEF]) := by decide
theorem test_word_txData21 :
    decodeOutbound p12 [0x3F, 0, 1, 9, 0x36, 0, 0, 0, 1, 0, 0, 0] = .ok (.txData21 0xF 0 1 [1]) := by decide
theorem test_word_txData41 :
    decodeOutbound p12 [0x41, 2, 3, 9, 0xC9, 0, 0, 0, 0x80, 0, 0, 0] = .ok (.txData41 0 2 3 [0x80]) := by decide
theorem test_word_txData81 :
    decodeOutbound p12 [0xFF, 1, 0, 0x0C, 0xF6, 0, 0, 0, 1, 2, 3, 4] = .ok (.txData81 0x3F 1 0 [1, 2, 3, 4]) := by
  decide
/-- R68. -/
theorem test_word_commands :
    decodeCommand ⟨0, [1], 0x10, 2, ⟨3⟩⟩ = .tick ∧ decodeCommand ⟨1, [1], 0x10, 2, ⟨3⟩⟩ = .submit [1] 0x10 2 ∧
      decodeCommand ⟨2, [1], 0x10, 2, ⟨3⟩⟩ = .register 0x10 ⟨3⟩ ∧ decodeCommand ⟨3, [1], 0x10, 2, ⟨3⟩⟩ = .ping := by
  decide
/-- What is no transmitted frame is rejected, each way by its name. -/
theorem test_word_rejected :
    decodeOutbound p12 [0x01, 0, 0, 8, 9, 0, 0, 0] = .error .txSize ∧
      decodeOutbound p12 [0x01, 0, 0, 7, 6, 0, 0, 0, 0, 0, 0, 0] = .error .txLength ∧
      decodeOutbound p12 [0x01, 0, 0, 8, 8, 0, 0, 0, 0, 0, 0, 0] = .error .txChecksum ∧
      decodeOutbound p12 [0x01, 0, 0, 8, 8, 0, 1, 0, 0, 0, 0, 0] = .error .txReserved ∧
      decodeOutbound p12 [0x01, 0, 0, 8, 9, 0, 0, 0, 0, 0, 0, 1] = .error .txPadding ∧
      decodeOutbound p12 [0x00, 0, 0, 8, 8, 0, 0, 0, 0, 0, 0, 0] = .error .txOrigin ∧
      decodeOutbound p12 [0x01, 1, 0, 8, 8, 0, 0, 0, 0, 0, 0, 0] = .error .txForm := by decide
/-- V12, V13: the body is cut before the header is built (R77). -/
theorem test_encode_truncates :
    encodeFrame p12 0x11 0 7 [1, 2, 3, 4, 5, 6] = [0x11, 0, 7, 0x0C, 0x1E, 0, 0, 0, 1, 2, 3, 4] ∧
      encodeFrame p9 0x0B 0 7 [0x11, 1, 0x2C] = [0x0B, 0, 7, 9, 0x14, 0, 0, 0, 0x11] := by decide

/-! ### One step per instruction -/

/-- V30: nothing is written. -/
theorem test_step_rxOwnOrigin :
    look wire (ticked idle [0x01, 0, 0, 8, 9, 0, 0, 0, 0, 0, 0, 0]) = some ([], .idle) := by decide
/-- V50: START. -/
theorem test_step_rxNoop_start :
    look wire (ticked waiting [0x00, 0, 0, 8, 8, 0, 0, 0, 0, 0, 0, 0]) =
      some ([0x0B, 0, 7, 0x0B, 0x13, 0, 0, 0, 0x11, 0, 5, 0], .awaitStartAck) := by decide
/-- V33: the keep-alive. -/
theorem test_step_rxNoop_keepalive :
    look wire (ticked idle []) = some ([0x01, 0, 0, 8, 9, 0, 0, 0, 0, 0, 0, 0], .idle) := by decide
/-- V80: recorded and answered in the same tick. -/
theorem test_step_rxPing :
    look wire (ticked idle [0x02, 0, 0x33, 8, 0x39, 0, 0, 0, 0, 0, 0, 0]) =
      some ([0x05, 0, 0x33, 8, 0x3E, 0, 0, 0, 0, 0, 0, 0], .idle) := by decide
/-- V83: the marker is set, not appended. -/
theorem test_step_rxPing_again :
    look State.rs (ticked { receiving with rs := [⟨2, 5, [0xA5]⟩, ⟨2, 6, [0xA5]⟩] }
      [0x02, 1, 5, 8, 0x0E, 0, 0, 0, 0, 0, 0, 0]) = some [⟨2, 5, [0xA5]⟩, ⟨2, 6, [0xA5]⟩] := by decide
/-- R151's example: a registered PONG handler gets the marker. -/
theorem test_step_rxPong :
    look (fun t => t.delivered.map Delivery.call)
      (ticked (idle.setRegRow 2 (.user ⟨9⟩)) [0x04, 0, 0, 8, 0x0C, 0, 0, 0, 0, 0, 0, 0]) =
        some [(⟨9⟩, 4, 0, [0xA5])] := by decide
/-- V61: the first fragment, then cursor 4 and sequence 1. -/
theorem test_step_rxAck_fragment :
    look (fun t => (wire t, t.q)) (ticked sending [0x06, 0, 7, 8, 9, 0, 0, 0, 0, 0, 0, 0]) =
      some (([0x11, 0, 7, 0x0C, 0x38, 0, 0, 0, 0xDE, 0xAD, 0xBE, 0xEF], .sending),
        [{ xfer with cursor := 4, nextSeq := 1 }]) := by decide
/-- V63: END and the pop. -/
theorem test_step_rxAck_end :
    look (fun t => (wire t, t.q)) (ticked ending [0x06, 1, 7, 8, 8, 0, 0, 0, 0, 0, 0, 0]) =
      some (([0x0D, 2, 7, 8, 0, 0, 0, 0, 0, 0, 0, 0], .idle), []) := by decide
/-- V66: byte for byte. -/
theorem test_step_rxReject :
    look wire (ticked sentOne [0x08, 0, 7, 9, 0x0F, 0, 0, 0, 9, 0, 0, 0]) = some (rejectSent ++ rejectSent, .idle) := by
  decide
/-- V41: a REJECT with a bad checksum is rejected, not obeyed. -/
theorem test_step_rxReject_bad :
    look wire (ticked idle [0x08, 0, 7, 9, 0xFF, 0, 0, 0, 9, 0, 0, 0]) =
      some ([0x09, 0, 7, 9, 0x0F, 0, 0, 0, 8, 0, 0, 0], .idle) := by decide
/-- V54. -/
theorem test_step_rxStart :
    look wire (ticked idle [0x0A, 0, 7, 0x0B, 0x13, 0, 0, 0, 0x10, 0, 5, 0]) =
      some ([0x07, 0, 7, 8, 8, 0, 0, 0, 0, 0, 0, 0], .receiving) := by decide
/-- V57: ACK, then the flush. -/
theorem test_step_rxEnd :
    look (fun t => (wire t, t.rs))
        (ticked ({ receiving with rs := [entry] }.setRegRow 8 (.user ⟨1⟩)) [0x0C, 2, 7, 8, 1, 0, 0, 0, 0, 0, 0, 0]) =
          some (([0x07, 2, 7, 8, 0x0A, 0, 0, 0, 0, 0, 0, 0], .idle), []) ∧
      look (fun t => t.delivered.map Delivery.call)
        (ticked ({ receiving with rs := [entry] }.setRegRow 8 (.user ⟨1⟩)) [0x0C, 2, 7, 8, 1, 0, 0, 0, 0, 0, 0, 0]) =
          some [(⟨1⟩, 0x10, 7, [0xDE, 0xAD, 0xBE, 0xEF, 0x42])] := by decide
/-- V56. -/
theorem test_step_rxData10 :
    look (fun t => (wire t, t.rs)) (ticked receiving [0x10, 0, 7, 0x0C, 0x39, 0, 0, 0, 0xDE, 0xAD, 0xBE, 0xEF]) =
      some (([0x07, 0, 7, 8, 8, 0, 0, 0, 0, 0, 0, 0], .receiving), [⟨0x10, 7, [0xDE, 0xAD, 0xBE, 0xEF]⟩]) := by decide
/-- V111: the whole body is dropped, the ACK went out. -/
theorem test_step_rxData10_overflow :
    look (fun t => (wire t, t.rs, t.fault))
      (ticked { receiving with cfg := ⟨12, 1, 0, none, none, some 5, none⟩, rs := [⟨0x10, 7, [1, 2, 3, 4]⟩] }
        [0x10, 1, 7, 0x0C, 0x16, 0, 0, 0, 5, 6, 7, 8]) =
        some (([0x07, 1, 7, 8, 9, 0, 0, 0, 0, 0, 0, 0], .receiving), [⟨0x10, 7, [1, 2, 3, 4]⟩], 2) := by decide
/-- The other data patterns key their entries by the type byte as received (R17). -/
theorem test_step_rxData_keys :
    [exec (.rxData0E ⟨0, 0, 7, 0, 0, 0, [0], false⟩) receiving,
      exec (.rxData20 0xF ⟨1, 2, 0x6E, 0, 0, 0, [0x5A], false⟩) receiving,
      exec (.rxData40 9 ⟨0, 0, 0x5A, 0, 0, 0, [1], false⟩) receiving,
      exec (.rxData80 0x3F ⟨0x80, 1, 0x74, 0, 0, 0, [2], false⟩) receiving].map (look State.rs) =
    [some [⟨0x0E, 0, [0]⟩], some [⟨0x3E, 2, [0x5A]⟩], some [⟨0x52, 0, [1]⟩], some [⟨0xFE, 1, [2]⟩]] := by decide
/-- V76: a data frame without a body. -/
theorem test_step_rxData10_empty :
    look (fun t => (wire t, t.rs)) (ticked receiving [0x10, 0, 7, 8, 0x1F, 0, 0, 0, 0, 0, 0, 0]) =
      some (([], .receiving), []) := by decide
/-- R59 to R65: the control frames. -/
theorem test_step_tx_control :
    [exec .txNoop idle, exec .txPing idle, exec (.txPong 0x33) idle, exec (.txAck 5 9) idle,
      exec (.txReject 5 9 0x10) idle, exec (.txStart 0 7 0x11 5) idle, exec (.txEnd 2 7) idle].map
        (look fun t => t.lastFrame) =
    [some [0x01, 0, 0, 8, 9, 0, 0, 0, 0, 0, 0, 0], some [0x03, 0, 0, 8, 0x0B, 0, 0, 0, 0, 0, 0, 0],
      some [0x05, 0, 0x33, 8, 0x3E, 0, 0, 0, 0, 0, 0, 0], some [0x07, 5, 9, 8, 3, 0, 0, 0, 0, 0, 0, 0],
      some [0x09, 5, 9, 9, 0x1C, 0, 0, 0, 0x10, 0, 0, 0], some [0x0B, 0, 7, 0x0B, 0x13, 0, 0, 0, 0x11, 0, 5, 0],
      some [0x0D, 2, 7, 8, 0, 0, 0, 0, 0, 0, 0, 0]] := by decide
/-- R66: the five data patterns. -/
theorem test_step_tx_data :
    [exec (.txData0F 0 0 [0]) idle, exec (.txData11 0 1 7 [0x42]) idle, exec (.txData21 0xF 0 1 [1]) idle,
      exec (.txData41 0 2 3 [0x80]) idle, exec (.txData81 0x3F 1 0 [1, 2, 3, 4]) idle].map
        (look fun t => t.out.map Prod.snd) =
    [some [0x0F, 0, 0, 9, 6, 0, 0, 0, 0, 0, 0, 0], some [0x11, 1, 7, 9, 0x5C, 0, 0, 0, 0x42, 0, 0, 0],
      some [0x3F, 0, 1, 9, 0x36, 0, 0, 0, 1, 0, 0, 0], some [0x41, 2, 3, 9, 0xC9, 0, 0, 0, 0x80, 0, 0, 0],
      some [0xFF, 1, 0, 0x0C, 0xF6, 0, 0, 0, 1, 2, 3, 4]] := by decide
/-- V44. -/
theorem test_step_tick_read_fails :
    look (fun t => (wire t, t.fault, t.status)) (exec .tick { idle with rxAns := .fail }) =
      some (([], .idle), 1, some .ioFail) := by decide
/-- V36. -/
theorem test_step_tick_waits : look wire (ticked sending [1, 2, 3]) = some ([], .sending) := by decide
/-- V23: bit 0 of the type is stored as 0. -/
theorem test_step_submit :
    look (fun t => (t.q, t.status)) (exec (.submit [1] 0x0F 0) idle) = some ([⟨[1], 0, 0x0E, 0, 0⟩], some .ok) := by
  decide
/-- V20, V26. -/
theorem test_step_submit_refused :
    look State.status (exec (.submit [1] 0x0C 0) idle) = some (some .refusedType) ∧
      look (fun t => (t.q.length, t.status))
        (exec (.submit [2] 0x10 0) { waiting with cfg := ⟨12, 1, 0, some 1, none, none, none⟩ }) =
          some (1, some .refusedFull) := by decide
/-- R158's example, under the odd code of the kind. -/
theorem test_step_register :
    look (fun t => (t.regRow 8, t.regRow 1)) (exec (.register 0x11 ⟨1⟩) idle) = some (.user ⟨1⟩, .autoPong) := by decide
/-- V89. -/
theorem test_step_ping :
    look wire (exec .ping idle) = some ([0x03, 0, 0, 8, 0x0B, 0, 0, 0, 0, 0, 0, 0], .idle) := by decide
/-- V110. -/
theorem test_step_ping_fails :
    look (fun t => (t.lastValid, t.fault, t.status)) (exec .ping (State.linkDown idle)) =
      some (false, 1, some .ioFail) := by decide
/-- V108: the second PONG fails. -/
theorem test_flush_stops :
    look (fun t => (wire t, t.rs, t.lastFrame, t.fault))
      (exec (.rxEnd ⟨1, 7, 2, 0, 0, 0, [], false⟩)
        { receiving with rs := [⟨2, 5, [0xA5]⟩, ⟨2, 6, [0xA5]⟩, ⟨0x10, 7, [1]⟩], txAns := [true, true, false] }) =
      some (([0x07, 1, 7, 8, 9, 0, 0, 0, 0, 0, 0, 0, 0x05, 0, 5, 8, 8, 0, 0, 0, 0, 0, 0, 0], .idle),
        [⟨2, 6, [0xA5]⟩, ⟨0x10, 7, [1]⟩], [0x05, 0, 5, 8, 8, 0, 0, 0, 0, 0, 0, 0], 1) := by decide
/-- V90: the REJECT resends the PING. -/
theorem test_reject_after_ping :
    look wire (ticked { sentOne with lastFrame := pingFrame p12, out := [] } [0x08, 0, 0, 9, 0x10, 0, 0, 0, 0x11, 0, 0, 0])
      = some ([0x03, 0, 0, 8, 0x0B, 0, 0, 0, 0, 0, 0, 0], .idle) := by decide

/-- R191: V57's END cut short after the ACK, and after the delivery that follows it. -/
theorem test_abandoned :
    [0, 1, 2, 9].map (fun k => look (fun t => (t.out.length, t.delivered.length, t.engine, t.rs))
      (step ({ receiving with
        rs := [entry, ⟨2, 5, [0xA5]⟩]
        pending := [.abandoned ⟨0, [], 0, 0, ⟨0⟩⟩ [0x0C, 2, 7, 8, 1, 0, 0, 0, 0, 0, 0, 0] .latest [] k] }.setRegRow 8
          (.user ⟨1⟩)))) =
      [some (0, 0, .idle, []), some (12, 0, .idle, []), some (12, 1, .idle, []), some (24, 1, .idle, [])] := by decide

/-- R41(b), P8: the PONG of an earlier entry is on `OUT` when the next entry is delivered, the PONG of a later one is not. -/
theorem test_flush_order :
    look (fun t => t.delivered.map Delivery.outLen)
      (exec (.rxEnd fEnd) ({ receiving with rs := [⟨2, 5, [0xA5]⟩, entry, ⟨2, 6, [0xA5]⟩] }.setRegRow 8 (.user ⟨1⟩))) =
        some [24] := by decide

/-- R191, R41(b): the effects of that END in time order are ACK, PONG, delivery, PONG; the first so many stand. -/
theorem test_abandoned_order :
    [1, 2, 3, 4].map (fun k => look (fun t => (t.out.length, t.delivered.length))
      (step ({ receiving with
        rs := [⟨2, 5, [0xA5]⟩, entry, ⟨2, 6, [0xA5]⟩]
        pending := [.abandoned ⟨0, [], 0, 0, ⟨0⟩⟩ [0x0C, 2, 7, 8, 1, 0, 0, 0, 0, 0, 0, 0] .latest [] k] }.setRegRow 8
          (.user ⟨1⟩)))) =
      [some (12, 0), some (24, 0), some (24, 1), some (36, 1)] := by decide

/-! ### The host's two entry points -/

theorem test_tableWord :
    decodeTableWord 8 0x06 = some (.rxAck ⟨0, 0, 0x0E, 0, 0, 0, [], false⟩) ∧ decodeTableWord 8 0x07 = some (.txAck 0 0) ∧
      decodeTableWord 8 0x0B = some (.txStart 0 0 0x0F 0) ∧ decodeTableWord 2 1 = some (.submit [] 0 0) := by decide
/-- An ACK after reset is answered with NOOP (R133); a TX row's word runs the command that sends its frame. -/
theorem test_withFetchWord :
    look (fun t => (t.out.map Prod.snd).take 8) (step (State.reset.withFetchWord 8 0x06)) =
        some [0x01, 0, 0, 8, 9, 0, 0, 0] ∧
      look (fun t => (t.out.map Prod.snd).take 8) (step (State.reset.withFetchWord 8 0x07)) =
        some [0x07, 0, 0, 8, 0x0F, 0, 0, 0] ∧
      look State.status (step (State.reset.withFetchWord 2 1)) = some (some .refusedType) := by decide

/-- Each TX row runs from a state in the middle of a transfer too: the frame that goes out is the row's. -/
theorem test_readyToSend :
    [Instr.txNoop, .txPing, .txPong 0x33, .txAck 5 9, .txReject 5 9 0x10, .txStart 0 7 0x11 5, .txEnd 2 7,
      .txData0F 0 0 [0], .txData11 0 1 7 [0x42], .txData21 0xF 0 1 [1], .txData41 0 2 3 [0x80],
      .txData81 0x3F 1 0 [1, 2, 3, 4]].all
        (fun i => look State.lastFrame (step (sending.readyToSend i)) == look State.lastFrame (exec i sending)) = true := by
  decide

/-! ### Witnesses: states and operands that meet the hypotheses of each obligation together -/

/-- The data frame of R125's example. -/
def rawData : Bytes := [0x10, 0, 7, 0x0C, 0x39, 0, 0, 0, 0xDE, 0xAD, 0xBE, 0xEF]

/-- The ACK of R131's example. -/
def rawAck : Bytes := [0x06, 0, 7, 8, 9, 0, 0, 0, 0, 0, 0, 0]

theorem witness_ChecksumFoldsAllButOffsetFour :
    (8 ≤ 8 ∧ 8 ≤ (rawAck.take 8).length) ∧ 8 ≤ 12 ∧ 12 ≤ rawData.length := by decide

/-- Legal parameters at both ends of the range (EncodeBuildsTheFrame, DecodeFrameInvertsEncode). -/
theorem witness_legal : p12.legal ∧ p9.legal ∧ (⟨255, 0, 0, some 1, some 1, some 1, some 0⟩ : Params).legal := by decide

/-- Each of the three cases at its boundary, and a NOOP of the peer to compare with. -/
theorem witness_MalformedChunkIsSyntheticNoop :
    (rawAck.take 7).length < 8 ∧ (([0x10, 0, 0, 7, 0x17, 0, 0, 0] : Bytes).getD 3 0).toNat < 8 ∧
      ([0x10, 0, 0, 0x0D, 0, 0, 0, 0, 0, 0, 0, 0] : Bytes).length <
        (([0x10, 0, 0, 0x0D, 0, 0, 0, 0, 0, 0, 0, 0] : Bytes).getD 3 0).toNat ∧
      waiting.cfg = p12 ∧ frameValid (typeByte 0 p12.rxParity) fNoop = true := by decide

theorem witness_RealFrameFields :
    (8 ≤ (rawAck.take 8).length ∧ 8 ≤ ((rawAck.take 8).getD 3 0).toNat ∧
        ((rawAck.take 8).getD 3 0).toNat ≤ (rawAck.take 8).length) ∧
      8 ≤ rawData.length ∧ 8 ≤ (rawData.getD 3 0).toNat ∧ (rawData.getD 3 0).toNat ≤ rawData.length := by decide

/-- The first byte, the checksum byte and the last covered byte. -/
theorem witness_SingleByteCorruptionIsDetected :
    8 ≤ (rawData.getD 3 0).toNat ∧ (rawData.getD 3 0).toNat ≤ rawData.length ∧
      (∀ i ∈ [0, 4, 11], i < (rawData.getD 3 0).toNat ∧ i ≠ 3 ∧ (0x77 : Byte) ≠ rawData.getD i 0) ∧
      frameValid (decodeFrame p12 rawData).1 (decodeFrame p12 rawData).2 = true := by decide

theorem witness_PaddingIsInvisible : (rawAck.getD 3 0).toNat ≤ 8 ∧ (rawAck.getD 3 0).toNat ≤ 11 ∧ 8 ≤ 8 := by decide

/-- Every clause's antecedent at the ends of its range. -/
theorem witness_TypeByteClassification :
    p12.txParity = 1 ∧ q12.txParity = 0 ∧ (∀ t ∈ ([0x01, 0xFF] : Bytes), t &&& 0x01 = 0x01) ∧
      (∀ t ∈ ([0x10, 0x1E] : Bytes), t &&& 0xF1 = 0x10) ∧ (∀ t ∈ ([0x20, 0x3E] : Bytes), t &&& 0xE1 = 0x20) ∧
      (∀ t ∈ ([0x40, 0x7E] : Bytes), t &&& 0xC1 = 0x40) ∧ ∀ t ∈ ([0x80, 0xFE] : Bytes), t &&& 0x81 = 0x80 := by
  decide

/-- A well-formed term of every constructor, longest and shortest bodies among them. -/
def samples : List Instr :=
  [.rxOwnOrigin 127 fData, .rxNoop fNoop, .rxNoop Frame.syntheticNoop, .rxPing fPing, .rxPong fPong, .rxAck fAck,
    .rxReject fReject, .rxStart fStart, .rxEnd fEnd, .rxData0E fData, .rxData10 7 fData, .rxData20 15 fBad,
    .rxData40 31 fData, .rxData80 63 fData, .txNoop, .txPing, .txPong 255, .txAck 255 255, .txReject 1 2 0xFE,
    .txStart 1 2 0xFF 0xFFFF, .txStart 1 2 0x0F 0, .txEnd 255 0, .txData0F 0 0 [1], .txData11 7 0 0 [1, 2, 3, 4],
    .txData21 15 0 0 [1], .txData41 31 0 0 [1], .txData81 63 0 0 [1, 2, 3, 4], .tick, .submit [] 0 0,
    .register 0xFF ⟨0⟩, .ping]

theorem witness_DecodeInvertsEncode :
    p12.legal ∧ (∀ i ∈ samples, i.wellFormed p12 = true) ∧ p9.legal ∧ (Instr.txStart 0 0 0x11 0).wellFormed p9 = true ∧
      p10.legal ∧ (Instr.txStart 0 0 0x11 0xFF00).wellFormed p10 = true := by decide

theorem witness_DecodedIsWellFormed :
    p12.legal ∧ ((⟨2, [], 0, 0, ⟨7⟩⟩ : CmdWord).code = 2 → Handler.ofType p12 ⟨7⟩ = true) ∧ rawData.length ≤ p12.packetSize ∧ ([] : Bytes).length ≤ p12.packetSize ∧
      decodeOutbound p12 [0x0B, 0, 7, 0x0B, 0x13, 0, 0, 0, 0x11, 0, 5, 0] = .ok (.txStart 0 7 0x11 5) := by decide

theorem witness_ResetRequestResetsTheEngine : ({ sending with pending := [.reset] } : State).pending = .reset :: [] := rfl

theorem witness_ResetDuringCommandAbandonsIt :
    ({ sending with pending := [.abandoned ⟨3, [], 0, 0, ⟨0⟩⟩ [1] .latest [] 1] } : State).pending =
        .abandoned ⟨3, [], 0, 0, ⟨0⟩⟩ [1] .latest [] 1 :: [] ∧
      sending.cfg.legal ∧ sending.lastFrame.length = sending.cfg.packetSize ∧
      ∃ t0, exec (decodeCommand ⟨3, [], 0, 0, ⟨0⟩⟩)
        { sending with inp := sending.inp.extend [1], rxAns := .latest, txAns := [], pending := [] } = .next t0 ∧
          t0.out.length = 12 := ⟨rfl, by decide, by decide, _, rfl, by decide⟩

/-- A good state in the middle of a transfer: one fragment out, one key in the store. -/
def busy : State :=
  { sending with
    q := [{ xfer with cursor := 4, nextSeq := 1 }, ⟨[1], 0, 0xFE, 1, 0⟩]
    rs := [⟨0x10, 7, [1]⟩, ⟨0x02, 7, [0xA5]⟩]
    lastValid := true
    lastFrame := [0x11, 0, 7, 0x0C, 0x38, 0, 0, 0, 0xDE, 0xAD, 0xBE, 0xEF]
    out := Memory.extend [] [0x11, 0, 7, 0x0C, 0x38, 0, 0, 0, 0xDE, 0xAD, 0xBE, 0xEF]
    pending := [.command ⟨0, [], 0, 0, ⟨0⟩⟩ rawAck .latest []] }

theorem busy_inv : busy.Inv where
  legal := by decide
  outLog := by decide
  inLog := by decide
  busyHasHead := by decide
  transfers := by
    intro h hh
    simp [busy] at hh
    rcases hh with rfl | rfl <;> exact ⟨by decide, by decide, by decide, by decide⟩
  waiting := by
    intro h hh
    simp [busy] at hh
    subst hh
    exact ⟨rfl, rfl⟩
  queueFits := by decide
  idleEmpty := by decide
  keysDistinct := by decide
  keysGood := by
    intro e he
    simp [busy] at he
    rcases he with rfl | rfl
    · exact ⟨by decide, .inr (.inr (by decide))⟩
    · exact ⟨by decide, .inl (by decide)⟩
  storeFits := by decide
  buffersFit := by decide
  lastSize := by decide
  lastGood := fun _ => ⟨by decide, by decide, by decide, by decide, by decide⟩
  lastIsTail := by decide
  registryTyped := fun _ _ _ => rfl
  deliveriesTyped := fun _ _ => rfl
  requestsTyped := by decide

theorem witness_StepKeepsInvariants : busy.Inv ∧ ∃ t, step busy = .next t ∧ t.engine = .sending := ⟨busy_inv, _, rfl, rfl⟩

/-- Each kind of request. -/
theorem witness_StepRunsNextRequest :
    busy.pending = .command ⟨0, [], 0, 0, ⟨0⟩⟩ rawAck .latest [] :: [] ∧
      ({ idle with pending := [.reset] } : State).pending = .reset :: [] ∧
      ({ idle with pending := [.abandoned ⟨3, [], 0, 0, ⟨0⟩⟩ [] .latest [] 1] } : State).pending =
        .abandoned ⟨3, [], 0, 0, ⟨0⟩⟩ [] .latest [] 1 :: [] ∧ idle.pending = [] := ⟨rfl, rfl, rfl, rfl⟩

theorem witness_TransmittedRowsRunInCommands :
    busy.cfg.legal ∧ (Instr.txReject 5 9 0x10).wellFormed busy.cfg = true ∧
      encode busy.cfg (.txReject 5 9 0x10) = .outbound [0x09, 5, 9, 9, 0x1C, 0, 0, 0, 0x10, 0, 0, 0] ∧
      ∀ seq ctx ty, Instr.txReject 5 9 0x10 = .txReject seq ctx ty → origin ty = busy.cfg.rxParity := by
  refine ⟨by decide, by decide, by decide, ?_⟩
  rintro seq ctx ty ⟨⟩
  decide

theorem witness_TickRunsDecodedFrame :
    ({ sending with rxAns := .bytes rawAck } : State).rxRead = some rawAck ∧ idle.rxRead = some [] := by decide

theorem witness_TickReadsTheLatestFrame :
    busy.pending = .command ⟨0, [], 0, 0, ⟨0⟩⟩ rawAck .latest [] :: [] ∧ (⟨0, [], 0, 0, ⟨0⟩⟩ : CmdWord).code = 0 ∧
      rawAck.length = busy.cfg.packetSize := ⟨rfl, rfl, rfl⟩

theorem witness_TickCompletes :
    ({ sending with rxAns := .bytes rawAck, txAns := [true] } : State).rxRead = some rawAck ∧
      ({ sending with rxAns := .bytes rawAck, txAns := [true] } : State).linkUp := by
  refine ⟨by decide, ?_⟩
  unfold State.linkUp
  decide

theorem witness_FailedReadChangesOnlyIoErr : ({ sending with rxAns := .fail } : State).rxAns = .fail := rfl

/-- The channel before and after: the last old offset, the first and last new one, and beyond. -/
theorem witness_AppendedBytesReadBack :
    (Memory.extend [] [1, 2] : Memory).wf ∧
      [1, 2, 4, 5].map ((Memory.extend [] [1, 2]).extend [3, 4, 5]).read = [some 2, some 3, some 5, none] := by decide

theorem witness_OutGrowsByWholeFrames :
    sentOne.cfg.legal ∧ sentOne.lastFrame.length = sentOne.cfg.packetSize ∧ 11 < sentOne.out.top ∧
      ∃ t, exec (.rxReject fReject) sentOne = .next t ∧ t.out.length = 24 :=
  ⟨by decide, by decide, by decide, _, rfl, by decide⟩

/-- (ExecKeepsInputs, FaultBitsAreSticky.) -/
theorem witness_execNext : ∃ t, exec (.rxAck fAck) { sending with fault := 3 } = .next t ∧ t.fault = 3 :=
  ⟨_, rfl, by decide⟩

/-- The five rules, each from a state where it fires. -/
theorem witness_StateChangesByFiveRules :
    (∃ t, exec (.rxNoop fNoop) waiting = .next t ∧ t.engine = .awaitStartAck) ∧
      (∃ t, exec (.rxAck fAck) awaiting = .next t ∧ t.engine = .sending) ∧
      (∃ t, exec (.rxAck fAck) ending = .next t ∧ t.engine = .idle) ∧
      (∃ t, exec (.rxStart fStart) sending = .next t ∧ t.engine = .receiving) ∧
      ∃ t, exec (.rxEnd fEnd) receiving = .next t ∧ t.engine = .idle :=
  ⟨⟨_, rfl, by decide⟩, ⟨_, rfl, by decide⟩, ⟨_, rfl, by decide⟩, ⟨_, rfl, by decide⟩, ⟨_, rfl, by decide⟩⟩

/-- The four ways of the queue. -/
theorem witness_QueueIsFifo :
    (∃ t, exec .ping waiting = .next t ∧ t.q = [xfer]) ∧
      (∃ t, exec (.submit [1] 0x21 3) waiting = .next t ∧ t.q = [xfer, ⟨[1], 0, 0x20, 3, 0⟩]) ∧
      (∃ t, exec (.rxAck fAck) sending = .next t ∧ t.q = [{ xfer with cursor := 4, nextSeq := 1 }]) ∧
      ∃ t, exec (.rxAck fAck) ending = .next t ∧ t.q = [] :=
  ⟨⟨_, rfl, by decide⟩, ⟨_, rfl, by decide⟩, ⟨_, rfl, by decide⟩, ⟨_, rfl, by decide⟩⟩

/-- An instruction that changes the registry, and one that is no REGISTER and hands a token over. -/
theorem witness_OnlyRegisterWritesRegistry :
    (∃ t, exec (.rxPong fPong) (idle.setRegRow 2 (.user ⟨9⟩)) = .next t ∧
        t.delivered.map Delivery.call = [(⟨9⟩, 4, 0, [0xA5])]) ∧
      (∀ ty h, Instr.rxPong fPong ≠ .register ty h) ∧
      ∃ t, exec (.register 0x10 ⟨1⟩) idle = .next t ∧ t.reg ≠ idle.reg := by
  refine ⟨⟨_, rfl, by decide⟩, (by intro ty h; exact nofun), _, rfl, fun h => ?_⟩
  have h8 := congrArg (fun r : Registry => r.get 8) h
  revert h8
  decide

theorem witness_NoopStartsTransfer :
    frameValid (typeByte 0 waiting.cfg.rxParity) fNoop = true ∧ waiting.engine = .idle ∧ waiting.q = xfer :: [] ∧
      waiting.txReady = true := by decide

theorem witness_NoopKeepsAliveOrWaits :
    frameValid (typeByte 0 idle.cfg.rxParity) fNoop = true ∧ (idle.q = [] ∧ idle.txReady = true) ∧
      sending.q ≠ [] ∧ sending.engine ≠ .idle := by decide

theorem witness_AckOfStartEntersSending :
    frameValid (typeByte 3 awaiting.cfg.rxParity) fAck = true ∧ awaiting.engine = .awaitStartAck := by decide

/-- The first fragment, and a last one of a single byte. -/
theorem witness_AckSendsNextFragment :
    frameValid (typeByte 3 sending.cfg.rxParity) fAck = true ∧ sending.engine = .sending ∧ sending.q = xfer :: [] ∧
      xfer.cursor < xfer.payload.length ∧ sending.txReady = true ∧
      ({ xfer with cursor := 4 } : Transfer).cursor < xfer.payload.length := by decide

theorem witness_AckEndsTransfer :
    frameValid (typeByte 3 ending.cfg.rxParity) fAck = true ∧ ending.engine = .sending ∧
      ending.q = { xfer with cursor := 5, nextSeq := 2 } :: [] ∧ xfer.payload.length ≤ 5 ∧ ending.txReady = true := by
  decide

theorem witness_AckIdleOrReceiving :
    frameValid (typeByte 3 waiting.cfg.rxParity) fAck = true ∧ (waiting.engine = .idle ∧ waiting.txReady = true) ∧
      receiving.engine = .receiving ∧ receiving.cfg = waiting.cfg := by decide

theorem witness_RejectResendsLastFrame :
    frameValid (typeByte 4 sentOne.cfg.rxParity) fReject = true ∧
      (sentOne.lastValid = true ∧ sentOne.txReady = true) ∧ idle.lastValid = false ∧ idle.cfg = sentOne.cfg := by decide

theorem witness_StartIsAcknowledged :
    frameValid (typeByte 5 sending.cfg.rxParity) fStart = true ∧ sending.txReady = true := by decide

theorem witness_EndIsAcknowledged :
    frameValid (typeByte 6 receiving.cfg.rxParity) fEnd = true ∧ receiving.txReady = true := by decide

/-- A store of two entries at most, of five bytes each at most, which holds one entry of another key. -/
def tight (rs : List Entry) : State := { receiving with cfg := ⟨12, 1, 0xA5, none, some 2, some 5, none⟩, rs := rs }

theorem witness_DataIsAcknowledgedAndAppended :
    isDataRow (.data8 0) = true ∧ frameValid (typeByte (kindOf (.data8 0)) p12.rxParity) fData = true ∧
      9 ≤ fData.length ∧ (∀ rs, (tight rs).engine = .receiving ∧ (tight rs).txReady = true ∧
        (tight rs).cfg.rxParity = p12.rxParity) ∧
      -- a new entry with room, at a free place
      (∀ e ∈ (tight [⟨0x12, 7, [1]⟩]).rs, ¬(e.ty = 0x10 ∧ e.ctx = 7)) ∧
      (∀ cap, (tight [⟨0x12, 7, [1]⟩]).cfg.rsEntries = some cap → (tight [⟨0x12, 7, [1]⟩]).rs.length ≠ cap) ∧
      (∀ cap, (tight [⟨0x12, 7, [1]⟩]).cfg.rsEntryBytes = some cap → fData.body.length ≤ cap) ∧
      -- a new entry without room: the store holds its two entries
      (∀ e ∈ (tight [⟨0x12, 7, [1]⟩, ⟨0x10, 8, [1]⟩]).rs, ¬(e.ty = 0x10 ∧ e.ctx = 7)) ∧
      (tight [⟨0x12, 7, [1]⟩, ⟨0x10, 8, [1]⟩]).cfg.rsEntries = some (tight [⟨0x12, 7, [1]⟩, ⟨0x10, 8, [1]⟩]).rs.length ∧
      -- an entry of the key that the body fills to the limit, and one that it would overfill by one byte
      (tight [⟨0x10, 7, [1]⟩]).rs = [] ++ ⟨0x10, 7, [1]⟩ :: [] ∧
      (∀ cap, (tight []).cfg.rsEntryBytes = some cap → [(1 : Byte)].length + fData.body.length ≤ cap) ∧
      ¬(∀ cap, (tight []).cfg.rsEntryBytes = some cap → [(1 : Byte), 2].length + fData.body.length ≤ cap) := by
  refine ⟨rfl, by decide, by decide, fun _ => ⟨rfl, rfl, rfl⟩, by decide, ?_, ?_, by decide, rfl, rfl, ?_, ?_⟩
  · rintro cap ⟨⟩
    decide
  · rintro cap ⟨⟩
    decide
  · rintro cap ⟨⟩
    decide
  · intro h
    exact absurd (h 5 rfl) (by decide)

theorem witness_DataOutsideReceivingIsLost :
    isDataRow (.data8 0) = true ∧ frameValid (typeByte (kindOf (.data8 0)) idle.cfg.rxParity) fData = true ∧
      idle.engine ≠ .receiving ∧
      frameValid (typeByte (kindOf (.data8 0)) receiving.cfg.rxParity) ⟨0, 7, 0x1F, 0, 0, 0, [], false⟩ = true ∧
      (⟨0, 7, 0x1F, 0, 0, 0, [], false⟩ : Frame).length = 8 := by decide

theorem witness_MarkerIsRecorded :
    (KindRow.ping = .ping ∨ KindRow.ping = .pong) ∧
      frameValid (typeByte (kindOf .ping) (tight []).cfg.rxParity) fPing = true ∧
      -- a new entry with room
      (∀ e ∈ (tight [⟨0x02, 7, [1]⟩]).rs, ¬(e.ty = 0x02 ∧ e.ctx = 0x33)) ∧
      (tight [⟨0x02, 7, [1]⟩]).cfg.rsEntries ≠ some (tight [⟨0x02, 7, [1]⟩]).rs.length ∧
      -- none free
      (∀ e ∈ (tight [⟨0x02, 7, [1]⟩, ⟨0x04, 0x33, [1]⟩]).rs, ¬(e.ty = 0x02 ∧ e.ctx = 0x33)) ∧
      (tight [⟨0x02, 7, [1]⟩, ⟨0x04, 0x33, [1]⟩]).cfg.rsEntries =
        some (tight [⟨0x02, 7, [1]⟩, ⟨0x04, 0x33, [1]⟩]).rs.length ∧
      -- an entry of the key
      (tight [⟨0x04, 0x33, [1]⟩, ⟨0x02, 0x33, [1, 2]⟩]).rs = [⟨0x04, 0x33, [1]⟩] ++ ⟨0x02, 0x33, [1, 2]⟩ :: [] ∧
      ∀ e ∈ [(⟨0x04, 0x33, [1]⟩ : Entry)] ++ [], ¬(e.ty = 0x02 ∧ e.ctx = 0x33) := by decide

theorem witness_MarkerIsFlushedWhenIdle :
    (KindRow.ping = .ping ∨ KindRow.ping = .pong) ∧
      frameValid (typeByte (kindOf .ping) idle.cfg.rxParity) fPing = true ∧ idle.engine = .idle ∧ idle.rs = [] ∧
      idle.cfg.rsEntries ≠ some 0 ∧ (idle.regRow (kindOf .ping) = .autoPong ∧ idle.txReady = true) ∧
      (idle.setRegRow 1 (.user ⟨4⟩)).regRow (kindOf .ping) = .user ⟨4⟩ ∧
      frameValid (typeByte (kindOf .pong) idle.cfg.rxParity) fPong = true ∧
      idle.regRow (kindOf .pong) = .unregistered := by decide

/-- Every kind of frame, with a checksum that is wrong for it. -/
theorem witness_BadChecksumIsRejected :
    (∀ r ∈ [KindRow.noop, .ping, .pong, .ack, .reject, .start, .fin, .data7, .data8 0, .data16 0, .data32 0, .data64 0],
        frameValid (typeByte (kindOf r) sending.cfg.rxParity) { fBad with cks := 0xFF } = false) ∧
      sending.txReady = true := by decide

theorem witness_UnregisteredEntryIsDropped :
    ({ idle with rs := [⟨0x10, 7, [1]⟩, ⟨2, 5, [0xA5]⟩] } : State).engine = .idle ∧
      ({ idle with rs := [⟨0x10, 7, [1]⟩, ⟨2, 5, [0xA5]⟩] } : State).rs = ⟨0x10, 7, [1]⟩ :: [⟨2, 5, [0xA5]⟩] ∧
      idle.regRow (kind (⟨0x10, 7, [1]⟩ : Entry).ty) = .unregistered := by decide

/-- An entry with a handler, a PING entry, and another entry with that handler. -/
def flushing : State :=
  { idle with rs := [⟨0x10, 6, [2]⟩, ⟨2, 5, [0xA5]⟩, ⟨0x10, 7, [1]⟩], txAns := [true] }.setRegRow 8 (.user ⟨1⟩)

theorem witness_FlushDeliversInOrder :
    flushing.engine = .idle ∧ flushing.linkUp ∧ flushing.cfg.legal ∧
      flushing.rs = [] ++ ⟨0x10, 6, [2]⟩ :: [⟨2, 5, [0xA5]⟩, ⟨0x10, 7, [1]⟩] ∧
      flushing.rs = [⟨0x10, 6, [2]⟩, ⟨2, 5, [0xA5]⟩] ++ ⟨0x10, 7, [1]⟩ :: [] ∧
      flushing.regRow (kind (⟨0x10, 7, [1]⟩ : Entry).ty) = .user ⟨1⟩ := by
  refine ⟨rfl, ?_, by decide, rfl, rfl, by decide⟩
  unfold State.linkUp
  decide

/-- V108's store behind an entry with a handler: the first PONG goes out, the second fails. -/
def stopping : State :=
  { idle with
    rs := [⟨0x10, 4, [3]⟩, ⟨2, 5, [0xA5]⟩, ⟨2, 6, [0xA5]⟩, ⟨0x10, 7, [1]⟩]
    txAns := [true, false] }.setRegRow 8 (.user ⟨1⟩)

theorem witness_FlushStopsAtFailedPong :
    stopping.engine = .idle ∧ stopping.cfg.legal ∧
      stopping.rs = [⟨0x10, 4, [3]⟩, ⟨2, 5, [0xA5]⟩] ++ ⟨2, 6, [0xA5]⟩ :: [⟨0x10, 7, [1]⟩] ∧
      stopping.regRow (kind (⟨2, 6, [0xA5]⟩ : Entry).ty) = .autoPong ∧
      stopping.txAns = List.replicate (stopping.pongFrames [⟨0x10, 4, [3]⟩, ⟨2, 5, [0xA5]⟩]).length true ++ false :: [] ∧
      ([⟨0x10, 4, [3]⟩, ⟨2, 5, [0xA5]⟩] : List Entry) = [] ++ ⟨0x10, 4, [3]⟩ :: [⟨2, 5, [0xA5]⟩] ∧
      stopping.regRow (kind (⟨0x10, 4, [3]⟩ : Entry).ty) = .user ⟨1⟩ := by decide

/-- Each row that sends, in a state where it does. -/
theorem witness_FailedSendCommitsNothing :
    (State.linkDown sending).txReady = false ∧
      frameValid (typeByte (kindOf (.data8 0)) sending.cfg.rxParity) fBad = false ∧
      (frameValid (typeByte 0 idle.cfg.rxParity) fNoop = true ∧ (State.linkDown idle).q = [] ∧
        (State.linkDown waiting).engine = .idle) ∧
      (frameValid (typeByte 3 idle.cfg.rxParity) fAck = true ∧ (State.linkDown sending).engine = .sending ∧
        (State.linkDown sending).q ≠ []) ∧
      (frameValid (typeByte 4 idle.cfg.rxParity) fReject = true ∧ (State.linkDown sentOne).lastValid = true) ∧
      frameValid (typeByte 5 idle.cfg.rxParity) fStart = true ∧ frameValid (typeByte 6 idle.cfg.rxParity) fEnd = true ∧
      isDataRow (.data8 0) = true ∧ frameValid (typeByte (kindOf (.data8 0)) idle.cfg.rxParity) fData = true ∧
      (State.linkDown receiving).engine = .receiving ∧ 9 ≤ fData.length := by decide

/-- The lowest data type, under both its codes. -/
theorem witness_SubmitAppendsTransfer :
    7 ≤ (kind 0x0E).toNat ∧ 7 ≤ (kind 0x0F).toNat ∧ ([] : Bytes).length ≤ 65535 ∧
      waiting.cfg.queueDepth ≠ some waiting.q.length := by decide

/-- The highest control type; a payload of one byte too many; a full queue. -/
theorem witness_SubmitRefusals :
    (kind 0x0D).toNat < 7 ∧ 7 ≤ (kind 0x0E).toNat ∧ 65535 < (List.replicate 65536 (0 : Byte)).length ∧
      ({ waiting with cfg := ⟨12, 1, 0, some 1, none, none, none⟩ } : State).cfg.queueDepth = some waiting.q.length := by
  refine ⟨by decide, by decide, ?_, rfl⟩
  rw [List.length_replicate]
  decide

/-- (PingSendsAtOnce, ControlFramesAreSent, DataFramesAreSent.) -/
theorem witness_txReady : sending.txReady = true ∧ isDataRow .data7 = true ∧ isDataRow (.data64 63) = true := by decide

theorem witness_FailedTransmissionKeepsLast :
    encode (State.linkDown idle).cfg (.txAck 5 9) = .outbound [0x07, 5, 9, 8, 3, 0, 0, 0, 0, 0, 0, 0] ∧
      (State.linkDown idle).txReady = false := by decide

theorem witness_FragmentsCarryThePayload :
    sending.cfg.legal ∧ frameValid (typeByte 3 sending.cfg.rxParity) fAck = true ∧ sending.engine = .sending ∧
      sending.q = xfer :: [] ∧ xfer.cursor = 0 ∧ xfer.nextSeq = 0 ∧ sending.linkUp := by
  refine ⟨by decide, by decide, rfl, rfl, rfl, rfl, ?_⟩
  unfold State.linkUp
  decide

/-- The receiving end: the same block with the other parity, an entry of another key in its store. -/
def peerReceiving : State := { receiving with cfg := q12, rs := [⟨0x11, 8, [1]⟩] }

theorem witness_PayloadRoundTrip :
    (sending.cfg.legal ∧ frameValid (typeByte 3 sending.cfg.rxParity) fAck = true ∧ sending.engine = .sending ∧
        sending.q = xfer :: [] ∧ xfer.cursor = 0 ∧ xfer.nextSeq = 0 ∧ sending.linkUp) ∧ xfer.good ∧ xfer.payload ≠ [] ∧ peerReceiving.cfg.packetSize = sending.cfg.packetSize ∧
      peerReceiving.cfg.txParity ≠ sending.cfg.txParity ∧ peerReceiving.engine = .receiving ∧ peerReceiving.linkUp ∧
      peerReceiving.cfg.rsEntries = none ∧ peerReceiving.cfg.rsEntryBytes = none ∧
      ∀ e ∈ peerReceiving.rs, ¬(e.ty = (xfer.dtype ||| sending.cfg.txParity.setWidth 8) ∧ e.ctx = xfer.ctx) := by
  refine ⟨witness_FragmentsCarryThePayload, ⟨by decide, by decide, by decide, by decide⟩, by decide, rfl, by decide, rfl,
    ?_, rfl, rfl, by decide⟩
  unfold State.linkUp
  decide

end Sys2Proof.Tests
end

section
/-! The step on each kind of request (R3, R34, R190, R191), and the commands a command word decodes to (R68). -/

namespace Sys2Proof.Machine

/-! ### One equation of the step per kind of request -/

theorem step_of_no_request {s : State} (h : s.pending = []) : step s = .next s := by
  simp only [step, State.fetch, h]

theorem step_of_reset {s : State} {rest : List Request} (h : s.pending = .reset :: rest) :
    step s = .next ({ s with pending := rest } : State).applyReset := by
  simp only [step, State.fetch, h]

theorem step_of_command {s : State} {w : CmdWord} {peer : Bytes} {rx : RxAnswer} {tx : List Bool}
    {rest : List Request} (h : s.pending = .command w peer rx tx :: rest) :
    step s = exec (decodeCommand w) (s.accept rest peer rx tx) := by
  simp only [step, State.fetch, h]

theorem step_of_abandoned {s : State} {w : CmdWord} {peer : Bytes} {rx : RxAnswer} {tx : List Bool} {k : Nat}
    {rest : List Request} (h : s.pending = .abandoned w peer rx tx k :: rest) :
    step s = (s.accept rest peer rx tx).cutShort k (exec (decodeCommand w) (s.accept rest peer rx tx)) := by
  simp only [step, State.fetch, h]

/-! ### The kinds of request, and of command -/

/-- What can stand in front of the pending requests. -/
theorem pending_cases (s : State) :
    s.pending = [] ∨ (∃ w peer rx tx rest, s.pending = .command w peer rx tx :: rest) ∨
      (∃ rest, s.pending = .reset :: rest) ∨
      ∃ w peer rx tx k rest, s.pending = .abandoned w peer rx tx k :: rest := by
  cases s.pending with
  | nil => exact .inl rfl
  | cons r rest =>
    cases r with
    | command w peer rx tx => exact .inr (.inl ⟨w, peer, rx, tx, rest, rfl⟩)
    | reset => exact .inr (.inr (.inl ⟨rest, rfl⟩))
    | abandoned w peer rx tx k => exact .inr (.inr (.inr ⟨w, peer, rx, tx, k, rest, rfl⟩))

/-- A command word is one of the four host commands (R68). -/
theorem decodeCommand_cases (w : CmdWord) :
    decodeCommand w = .tick ∨ (∃ payload ty ctx, decodeCommand w = .submit payload ty ctx) ∨
      (∃ ty h, decodeCommand w = .register ty h) ∨ decodeCommand w = .ping := by
  unfold decodeCommand
  split_ifs
  · exact .inl rfl
  · exact .inr (.inl ⟨w.payload, w.ty, w.ctx, rfl⟩)
  · exact .inr (.inr (.inl ⟨w.ty, w.handler, rfl⟩))
  · exact .inr (.inr (.inr rfl))

/-- Settles O19: one equation of the step per kind of request, and the two case splits; the statement writes out the state
`State.accept` builds. -/
theorem stepRunsNextRequest : Obligations.StepRunsNextRequest :=
  ⟨fun _ _ _ _ _ _ h => step_of_command h, fun _ _ h => step_of_reset h,
    fun _ _ _ _ _ _ _ h => step_of_abandoned h, fun _ h => step_of_no_request h, pending_cases, decodeCommand_cases⟩

end Sys2Proof.Machine
end

section
/-! What instructions are made of: every instruction but REGISTER is a sequence of updates of single fields, and none of
these updates touches the parameters, `IN`, the read answer or the pending requests (R7, R22, R32). -/

namespace Sys2Proof.Machine

/-! ### The field updates -/

/-- One update of a field, of those that every instruction but REGISTER is made of. -/
inductive Update (s : State) : State → Prop
  | engine (e : EngineState) : Update s (s.setEngine e)
  | queue (q : List Transfer) : Update s (s.setQ q)
  | store (rs : List Entry) : Update s (s.setRs rs)
  | last (f : Bytes) : Update s (s.setLast f)
  | fault (b : BitVec 2) : Update s (s.setFault b)
  | status (st : Status) : Update s (s.setStatus st)
  | txAnswer : Update s s.dropTxAnswer
  | out (f : Bytes) : Update s (s.extendOut f)
  | delivery (h : Handler) (e : Entry) : Update s (s.deliver h e)

/-- Any number of updates, one after the other. -/
abbrev Updates : State → State → Prop := Relation.ReflTransGen Update

/-- The state an operation leaves, whether its transmissions went out or not. -/
def Sent.state : Sent → State
  | .ok s => s
  | .failed s => s

theorem Sent.toOutcome_eq (r : Sent) : r.toOutcome = .next r.state := by cases r <;> rfl

/-! ### The shared operations -/

theorem State.raiseTransportFailure_updates (s : State) : Updates s s.raiseTransportFailure :=
  .tail (.single (.fault ioErrBit)) (.status .ioFail)

theorem State.send_updates (s : State) (f : Bytes) : Updates s (s.send f).state := by
  rcases s.send_cases f with ⟨_, h⟩ | ⟨_, h⟩ <;> rw [h]
  · exact .tail (.tail (.single .txAnswer) (.out f)) (.last f)
  · exact .head .txAnswer s.dropTxAnswer.raiseTransportFailure_updates

theorem Sent.andThen_updates {s : State} {r : Sent} {k : State → State} (h : Updates s r.state)
    (hk : ∀ x, Updates x (k x)) : Updates s (r.andThen k).state := by
  cases r with
  | ok x => exact h.trans (hk x)
  | failed x => exact h

theorem State.rsAppend_updates (s : State) (t c : Byte) (b : Bytes) : Updates s (s.rsAppend t c b) := by
  rcases s.rsAppend_cases t c b with ⟨_, _, _, h⟩ | ⟨_, _, _, h⟩ | h <;> rw [h]
  · exact .single (.store _)
  · exact .single (.store _)
  · exact .single (.fault rsOvfBit)

theorem State.rsSetMarker_updates (s : State) (t c : Byte) : Updates s (s.rsSetMarker t c) := by
  rcases s.rsSetMarker_cases t c with ⟨_, _, h⟩ | ⟨_, _, h⟩ | h <;> rw [h]
  · exact .single (.store _)
  · exact .single (.store _)
  · exact .single (.fault rsOvfBit)

theorem flushEntries_updates (es : List Entry) (s : State) : Updates s (flushEntries es s).state := by
  induction es generalizing s with
  | nil => exact .refl
  | cons e es ih =>
    rcases flushEntries_cons_cases e es s with ⟨h, _, heq⟩ | ⟨_, _, heq⟩ | ⟨_, _, heq⟩ | ⟨_, heq⟩ <;> rw [heq]
    · exact .head (.delivery h e) (.head (.store es) (ih _))
    · exact .head .txAnswer (.head (.out _) (.head (.last _) (.head (.store es) (ih _))))
    · exact .head .txAnswer s.dropTxAnswer.raiseTransportFailure_updates
    · exact .head (.store es) (ih _)

theorem State.endTick_updates (s : State) : Updates s s.endTick.state := by
  refine Sent.andThen_updates ?_ fun x => .single (.status .ok)
  split
  · exact flushEntries_updates s.rs s
  · exact .refl

theorem finishTick_updates {s t : State} {r : Sent} (h : Updates s r.state) (ht : finishTick r = .next t) :
    Updates s t := by
  cases r with
  | ok x =>
    rw [finishTick_ok, Sent.toOutcome_eq] at ht
    cases ht
    exact h.trans x.endTick_updates
  | failed x =>
    cases ht
    exact h

/-! ### The rows -/

/-- The row of the transition table that a valid frame of peer origin fires (R110). -/
def peerRow (r : KindRow) (f : Frame) : State → Sent :=
  match r with
  | .noop => noopRow
  | .ping | .pong => markerRow r f
  | .ack => ackRow
  | .reject => rejectRow
  | .start => startRow f
  | .fin => endRow f
  | .data7 | .data8 _ | .data16 _ | .data32 _ | .data64 _ => dataRow r f

theorem tickOnRow_eq (r : KindRow) (f : Frame) (s : State) :
    tickOnRow r f s = tickPeerFrame r f (peerRow r f) s := by cases r <;> rfl

theorem noopRow_updates (s : State) : Updates s (noopRow s).state := by
  rcases noopRow_cases s with ⟨_, h⟩ | ⟨_, _, _, _, h⟩ | ⟨_, _, h⟩ <;> rw [h]
  · exact s.send_updates _
  · exact Sent.andThen_updates (s.send_updates _) fun _ => .single (.engine _)
  · exact .refl

theorem ackRow_updates (s : State) : Updates s (ackRow s).state := by
  rcases ackRow_cases s with ⟨_, h⟩ | ⟨_, h⟩ | ⟨_, _, _, _, _, h⟩ | ⟨_, _, _, _, _, h⟩ | ⟨_, _, h⟩ | ⟨_, h⟩ <;> rw [h]
  · exact s.send_updates _
  · exact .single (.engine _)
  · exact Sent.andThen_updates (s.send_updates _) fun _ => .single (.queue _)
  · exact Sent.andThen_updates (s.send_updates _) fun _ => .tail (.single (.queue _)) (.engine _)
  · exact .refl
  · exact .refl

theorem rejectRow_updates (s : State) : Updates s (rejectRow s).state := by
  rcases rejectRow_cases s with ⟨_, h⟩ | ⟨_, h⟩ <;> rw [h]
  · exact s.send_updates _
  · exact .refl

theorem dataRow_updates (r : KindRow) (f : Frame) (s : State) : Updates s (dataRow r f s).state := by
  rcases dataRow_cases r f s with ⟨_, _, h⟩ | ⟨_, h⟩ <;> rw [h]
  · exact Sent.andThen_updates (s.send_updates _) fun x => x.rsAppend_updates _ _ _
  · exact .refl

theorem peerRow_updates (r : KindRow) (f : Frame) (s : State) : Updates s (peerRow r f s).state := by
  cases r with
  | noop => exact noopRow_updates s
  | ping | pong => exact s.rsSetMarker_updates _ _
  | ack => exact ackRow_updates s
  | reject => exact rejectRow_updates s
  | start | fin => exact Sent.andThen_updates (s.send_updates _) fun _ => .single (.engine _)
  | data7 | data8 | data16 | data32 | data64 => exact dataRow_updates _ f s

theorem tickOnRow_updates {r : KindRow} {f : Frame} {s t : State} (h : tickOnRow r f s = .next t) : Updates s t := by
  rw [tickOnRow_eq] at h
  rcases tickPeerFrame_cases r f (peerRow r f) s with ⟨_, heq⟩ | ⟨_, heq⟩ <;> rw [heq] at h
  · exact finishTick_updates (peerRow_updates r f s) h
  · exact finishTick_updates (s.send_updates _) h

/-! ### The instructions -/

/-- Everything a TICK can do (R105, R106, R176). -/
theorem execTick_cases (s : State) :
    execTick s = .next s.raiseTransportFailure ∨ execTick s = finishTick (.ok s) ∨
      ∃ r f, execTick s = tickOnRow r f s := by
  cases h : s.rxRead with
  | none => exact .inl (by simp [execTick, h])
  | some raw =>
    by_cases ho : origin (decodeFrame s.cfg raw).1 = s.cfg.txParity
    · exact .inr (.inl (by simp [execTick, h, tickOnFrame, ho, execRxOwnOrigin]))
    · exact .inr (.inr ⟨rowOfKind (kind (decodeFrame s.cfg raw).1), (decodeFrame s.cfg raw).2, by
        simp [execTick, h, tickOnFrame, ho]⟩)

/-- Everything an instruction can be: a tick on a frame of one side or the other, one transmission, or a host command. -/
theorem exec_cases (i : Instr) (s : State) :
    exec i s = finishTick (.ok s) ∨ (∃ r f, exec i s = tickOnRow r f s) ∨
      (∃ f, exec i s = (s.send f).toOutcome) ∨ i = .tick ∨ (∃ payload ty ctx, i = .submit payload ty ctx) ∨
      (∃ ty h, i = .register ty h) ∨ i = .ping := by
  cases i with
  | rxOwnOrigin k f => exact .inl rfl
  | rxNoop f => exact .inr (.inl ⟨.noop, f, rfl⟩)
  | rxPing f => exact .inr (.inl ⟨.ping, f, rfl⟩)
  | rxPong f => exact .inr (.inl ⟨.pong, f, rfl⟩)
  | rxAck f => exact .inr (.inl ⟨.ack, f, rfl⟩)
  | rxReject f => exact .inr (.inl ⟨.reject, f, rfl⟩)
  | rxStart f => exact .inr (.inl ⟨.start, f, rfl⟩)
  | rxEnd f => exact .inr (.inl ⟨.fin, f, rfl⟩)
  | rxData0E f => exact .inr (.inl ⟨.data7, f, rfl⟩)
  | rxData10 x f => exact .inr (.inl ⟨(.data8 x), f, rfl⟩)
  | rxData20 x f => exact .inr (.inl ⟨(.data16 x), f, rfl⟩)
  | rxData40 x f => exact .inr (.inl ⟨(.data32 x), f, rfl⟩)
  | rxData80 x f => exact .inr (.inl ⟨(.data64 x), f, rfl⟩)
  | txNoop | txPing | txPong | txAck | txReject | txStart | txEnd | txData0F | txData11 | txData21 | txData41
  | txData81 => exact .inr (.inr (.inl ⟨_, rfl⟩))
  | tick => simp
  | submit payload ty ctx => simp
  | register ty h => simp
  | ping => simp

theorem execTick_updates {s t : State} (h : execTick s = .next t) : Updates s t := by
  rcases execTick_cases s with heq | heq | ⟨r, f, heq⟩ <;> rw [heq] at h
  · cases h
    exact s.raiseTransportFailure_updates
  · exact finishTick_updates .refl h
  · exact tickOnRow_updates h

theorem execSubmit_updates {payload : Bytes} {ty ctx : Byte} {s t : State}
    (h : execSubmit payload ty ctx s = .next t) : Updates s t := by
  rcases execSubmit_cases payload ty ctx s with ⟨_, heq⟩ | ⟨_, _, heq⟩ | ⟨_, _, _, heq⟩ | ⟨_, _, _, heq⟩ <;>
    rw [heq] at h <;> cases h
  · exact .single (.status _)
  · exact .single (.status _)
  · exact .single (.status _)
  · exact .tail (.single (.queue _)) (.status _)

theorem execPing_updates {s t : State} (h : execPing s = .next t) : Updates s t := by
  rw [execPing, Sent.toOutcome_eq] at h
  cases h
  exact Sent.andThen_updates (s.send_updates _) fun _ => .single (.status _)

/-- Every instruction but REGISTER is a sequence of field updates. -/
theorem exec_updates {i : Instr} {s t : State} (hi : ∀ ty h, i ≠ .register ty h) (h : exec i s = .next t) :
    Updates s t := by
  rcases exec_cases i s with heq | ⟨r, f, heq⟩ | ⟨f, heq⟩ | rfl | ⟨payload, ty, ctx, rfl⟩ | ⟨ty, hd, rfl⟩ | rfl
  · exact finishTick_updates .refl (heq ▸ h)
  · exact tickOnRow_updates (heq ▸ h)
  · rw [heq, Sent.toOutcome_eq] at h
    cases h
    exact s.send_updates f
  · exact execTick_updates h
  · exact execSubmit_updates h
  · exact absurd rfl (hi ty hd)
  · exact execPing_updates h

/-! ### What they leave alone -/

/-- The inputs of the engine are the same: the parameters, `IN`, the read answer, the pending requests. -/
structure SameInputs (s t : State) : Prop where
  cfg : t.cfg = s.cfg
  inp : t.inp = s.inp
  rxAns : t.rxAns = s.rxAns
  pending : t.pending = s.pending

theorem SameInputs.trans {s t u : State} (h : SameInputs s t) (g : SameInputs t u) : SameInputs s u :=
  ⟨g.cfg.trans h.cfg, g.inp.trans h.inp, g.rxAns.trans h.rxAns, g.pending.trans h.pending⟩

theorem Update.sameInputs {s t : State} (h : Update s t) : SameInputs s t := by
  cases h <;> exact ⟨rfl, rfl, rfl, rfl⟩

theorem Updates.sameInputs {s t : State} (h : Updates s t) : SameInputs s t := by
  induction h with
  | refl => exact ⟨rfl, rfl, rfl, rfl⟩
  | tail _ hu ih => exact ih.trans hu.sameInputs

theorem exec_sameInputs {i : Instr} {s t : State} (h : exec i s = .next t) : SameInputs s t := by
  by_cases hi : ∃ ty hd, i = .register ty hd
  · obtain ⟨ty, hd, rfl⟩ := hi
    cases h
    exact ⟨rfl, rfl, rfl, rfl⟩
  · exact Updates.sameInputs (exec_updates (fun ty hd he => hi ⟨ty, hd, he⟩) h)

/-- Settles O28: every instruction but REGISTER is a sequence of field updates, none of which touches an input, and
REGISTER writes `REG` and the status only. -/
theorem execKeepsInputs : Obligations.ExecKeepsInputs := by
  intro i s t h
  obtain ⟨hcfg, hinp, hrx, hpending⟩ := exec_sameInputs h
  exact ⟨hcfg, hinp, hrx, hpending⟩

end Sys2Proof.Machine
end

section
/-! The frames this engine transmits are good frames (R23(f)): what R59 to R66 give encode makes a frame of own origin
with a length byte in range and a correct checksum. -/

namespace Sys2Proof.Machine

/-- The header bytes of an encoded frame that R23(f) speaks of (R76): the checksum is the one of the finished frame, since
the byte at offset 4 does not enter it (R75). -/
theorem encodeFrame_header (p : Params) (t s c : Byte) (body : Bytes) :
    (encodeFrame p t s c body).getD 0 0 = t ∧
      (encodeFrame p t s c body).getD 3 0 = BitVec.ofNat 8 (8 + (body.take p.bodyMax).length) ∧
      (encodeFrame p t s c body).getD 4 0 =
        checksum (encodeFrame p t s c body) (8 + (body.take p.bodyMax).length) := by
  refine ⟨rfl, rfl, ?_⟩
  simp only [encodeFrame, List.cons_append, List.nil_append, List.set_cons_succ, List.set_cons_zero,
    List.getD_cons_succ, List.getD_cons_zero]
  rw [checksum_header _ _ _ _ _ _ _ _ _ _ (by omega), checksum_header _ _ _ _ _ _ _ _ _ _ (by omega)]

/-- The length byte of an encoded frame holds its length: a frame has at most 255 bytes (R8, R76). -/
theorem lengthByte_toNat {p : Params} (hp : p.legal) (body : Bytes) :
    (BitVec.ofNat 8 (8 + (body.take p.bodyMax).length)).toNat = 8 + (body.take p.bodyMax).length ∧
      8 + (body.take p.bodyMax).length ≤ p.packetSize := by
  obtain ⟨hmin, hmax, _⟩ := hp
  have hbody : (body.take p.bodyMax).length ≤ p.packetSize - 8 := List.length_take_le _ _
  rw [BitVec.toNat_ofNat]
  omega

theorem SentFrame.encodeFrame {p : Params} (hp : p.legal) {t : Byte} (ht : origin t = p.txParity) (s c : Byte)
    (body : Bytes) : SentFrame p (encodeFrame p t s c body) := by
  obtain ⟨htype, hlength, hcks⟩ := encodeFrame_header p t s c body
  obtain ⟨hnat, hle⟩ := lengthByte_toNat hp body
  rw [← hlength] at hnat
  exact ⟨encodeFrame_length p hp t s c body, htype ▸ ht, by omega, by omega, by rw [hnat, hcks]⟩

/-- The frame of a row (R59 to R65). -/
theorem SentFrame.ofRow {p : Params} (hp : p.legal) (r : KindRow) (s c : Byte) (body : Bytes) :
    SentFrame p (sentFrame p r s c body) := SentFrame.encodeFrame hp (origin_typeByte _ _) s c body

/-- A type byte with bit 0 clear is sent under this side's parity (R66). -/
theorem origin_withParity {t : Byte} (h : origin t = 0) (o : BitVec 1) : origin (withParity t o) = o := by
  revert t o; decide

/-- The next fragment of a good transfer (R66). -/
theorem SentFrame.ofFragment {p : Params} (hp : p.legal) {h : Transfer} (hh : h.good) :
    SentFrame p (dataFrame p h) := SentFrame.encodeFrame hp (origin_withParity hh.even _) _ _ _

end Sys2Proof.Machine
end

section
/-! The invariants, by the element of the state they speak of: the queue, the reassembly store, and `OUT` with `LAST`; and
the rules by which the updates of an element keep its invariants (R14 to R17, R23). -/

namespace Sys2Proof.Machine

/-! ### Capacities -/

theorem exceeds_of_le {m n : Nat} {cap : Option Nat} (hmn : m ≤ n) (h : exceeds n cap = false) :
    exceeds m cap = false :=
  exceeds_eq_false.mpr fun c hc => hmn.trans (exceeds_eq_false.mp h c hc)

/-- What is within its capacity and not at it has room for one more. -/
theorem exceeds_succ {n : Nat} {cap : Option Nat} (h : exceeds n cap = false) (hne : cap ≠ some n) :
    exceeds (n + 1) cap = false := by
  refine exceeds_eq_false.mpr fun c hc => ?_
  have hle := exceeds_eq_false.mp h c hc
  have hcn : c ≠ n := fun he => hne (he ▸ hc)
  omega

/-! ### The queue -/

/-- The invariants of `Q` and `STATE`. -/
structure QueueInv (p : Params) (e : EngineState) (q : List Transfer) : Prop where
  busyHasHead : (e = .awaitStartAck ∨ e = .sending) → q ≠ []
  transfers : ∀ h ∈ q, h.good
  waiting : ∀ h ∈ q.tail, h.unsent
  fits : exceeds q.length p.queueDepth = false

section
variable {p : Params} {e : EngineState} {q rest : List Transfer} {h : Transfer}

theorem QueueInv.empty : QueueInv p .idle [] :=
  ⟨by simp, by simp, by simp, exceeds_eq_false.mpr fun _ _ => Nat.zero_le _⟩

/-- A state other than `AwaitStartAck` and `Sending` asks nothing of the queue (R23(a)). -/
theorem QueueInv.toQuiet (hq : QueueInv p e q) {e' : EngineState} (he : e' = .idle ∨ e' = .receiving) :
    QueueInv p e' q :=
  { hq with busyHasHead := by rcases he with rfl | rfl <;> simp }

theorem QueueInv.toBusy (hq : QueueInv p e q) (hne : q ≠ []) (e' : EngineState) : QueueInv p e' q :=
  { hq with busyHasHead := fun _ => hne }

/-- Only the head's progress may differ from that of a transfer of which nothing was sent (R98). -/
theorem QueueInv.setHead (hq : QueueInv p e (h :: rest)) {h' : Transfer} (hgood : h'.good) :
    QueueInv p e (h' :: rest) :=
  { hq with
    busyHasHead := fun _ => List.cons_ne_nil _ _
    transfers := List.forall_mem_cons.mpr ⟨hgood, fun x hx => hq.transfers x (List.mem_cons_of_mem _ hx)⟩ }

theorem QueueInv.pop (hq : QueueInv p e (h :: rest)) : QueueInv p .idle rest where
  busyHasHead := by simp
  transfers := fun x hx => hq.transfers x (List.mem_cons_of_mem _ hx)
  waiting := fun x hx => hq.waiting x (List.mem_of_mem_tail hx)
  fits := exceeds_of_le (Nat.le_succ _) hq.fits

theorem QueueInv.append (hq : QueueInv p e q) (hgood : h.good) (hunsent : h.unsent)
    (hroom : p.queueDepth ≠ some q.length) : QueueInv p e (q ++ [h]) where
  busyHasHead := by simp
  transfers := List.forall_mem_append.mpr ⟨hq.transfers, by simpa using hgood⟩
  waiting := by
    cases q with
    | nil => simp
    | cons x xs => exact List.forall_mem_append.mpr ⟨hq.waiting, by simpa using hunsent⟩
  fits := by
    rw [List.length_append]
    exact exceeds_succ hq.fits hroom

end

/-- A fragment is no longer than what remains (R131). -/
theorem Transfer.good.advance {h : Transfer} (hh : h.good) (p : Params) : (h.advance p).good :=
  { hh with
    cursor_le := by
      have hc := hh.cursor_le
      simp only [Transfer.advance, Transfer.fragmentLength, Transfer.rem]
      omega }

/-- Clearing bit 0 of a type byte keeps its kind. -/
theorem origin_kind_clearBit0 (t : Byte) : origin (t &&& 0xFE) = 0 ∧ kind (t &&& 0xFE) = kind t := by
  revert t; decide

theorem newTransfer_good {payload : Bytes} {ty : Byte} (hkind : 7 ≤ (kind ty).toNat)
    (hlen : payload.length ≤ maxPayload) (ctx : Byte) : (newTransfer payload ty ctx).good where
  cursor_le := Nat.zero_le _
  payload_le := hlen
  even := (origin_kind_clearBit0 ty).1
  dataKind := by rw [newTransfer, (origin_kind_clearBit0 ty).2]; exact hkind

/-! ### The reassembly store -/

/-- The invariants of `RS`. -/
structure StoreInv (p : Params) (rs : List Entry) : Prop where
  keysDistinct : (rs.map fun e => (e.ty, e.ctx)).Nodup
  keysGood : ∀ e ∈ rs, e.goodKey p
  fits : exceeds rs.length p.rsEntries = false
  buffersFit : ∀ e ∈ rs, exceeds e.buf.length p.rsEntryBytes = false

section
variable {p : Params} {rs : List Entry} {e : Entry} {t c : Byte}

theorem StoreInv.empty : StoreInv p [] :=
  ⟨List.nodup_nil, by simp, exceeds_eq_false.mpr fun _ _ => Nat.zero_le _, by simp⟩

theorem StoreInv.tail (h : StoreInv p (e :: rs)) : StoreInv p rs where
  keysDistinct := (List.nodup_cons.mp h.keysDistinct).2
  keysGood := fun x hx => h.keysGood x (List.mem_cons_of_mem _ hx)
  fits := exceeds_of_le (Nat.le_succ _) h.fits
  buffersFit := fun x hx => h.buffersFit x (List.mem_cons_of_mem _ hx)

theorem Entry.hasKey_iff : e.hasKey t c = true ↔ (e.ty, e.ctx) = (t, c) := by simp [Entry.hasKey]

/-- The entry found under a key is the only one of the key (R17). -/
theorem StoreInv.eq_of_hasKey (h : StoreInv p rs) (hfind : rs.find? (Entry.hasKey t c) = some e) {e' : Entry}
    (hmem : e' ∈ rs) (hkey : e'.hasKey t c = true) : e' = e :=
  List.inj_on_of_nodup_map h.keysDistinct hmem (List.mem_of_find?_eq_some hfind)
    ((Entry.hasKey_iff.mp hkey).trans (Entry.hasKey_iff.mp (List.find?_some hfind)).symm)

/-- A new entry of a key that is not there, with room for it (R150, R151). -/
theorem StoreInv.append (h : StoreInv p rs) (hfresh : rs.find? (Entry.hasKey e.ty e.ctx) = none)
    (hroom : p.rsEntries ≠ some rs.length) (hkey : e.goodKey p)
    (hbuf : exceeds e.buf.length p.rsEntryBytes = false) : StoreInv p (rs ++ [e]) where
  keysDistinct := by
    rw [List.map_append, List.map_singleton, List.nodup_append_comm]
    refine List.nodup_cons.mpr ⟨fun hm => ?_, h.keysDistinct⟩
    obtain ⟨x, hx, hxe⟩ := List.mem_map.mp hm
    exact List.find?_eq_none.mp hfresh x hx (Entry.hasKey_iff.mpr hxe)
  keysGood := List.forall_mem_append.mpr ⟨h.keysGood, by simpa using hkey⟩
  fits := by
    rw [List.length_append]
    exact exceeds_succ h.fits hroom
  buffersFit := List.forall_mem_append.mpr ⟨h.buffersFit, by simpa using hbuf⟩

/-- An entry of the updated store is one of the store, with another buffer if it has the key. -/
theorem mem_updateEntry {g : Bytes → Bytes} (hmem : e ∈ updateEntry t c g rs) :
    e ∈ rs ∨ ∃ x ∈ rs, x.hasKey t c = true ∧ e = { x with buf := g x.buf } := by
  obtain ⟨x, hx, rfl⟩ := List.mem_map.mp hmem
  by_cases hkey : x.hasKey t c = true
  · exact .inr ⟨x, hx, hkey, by simp [hkey]⟩
  · exact .inl (by simpa [hkey] using hx)

/-- A new buffer, within its capacity, for the entry of a key (R150, R151). -/
theorem StoreInv.update (h : StoreInv p rs) (hfind : rs.find? (Entry.hasKey t c) = some e) {g : Bytes → Bytes}
    (hbuf : exceeds (g e.buf).length p.rsEntryBytes = false) : StoreInv p (updateEntry t c g rs) where
  keysDistinct := by
    rw [updateEntry_keys]
    exact h.keysDistinct
  keysGood := by
    intro x hx
    rcases mem_updateEntry hx with hx | ⟨y, hy, _, rfl⟩
    · exact h.keysGood x hx
    · exact h.keysGood y hy
  fits := by
    rw [updateEntry, List.length_map]
    exact h.fits
  buffersFit := by
    intro x hx
    rcases mem_updateEntry hx with hx | ⟨y, hy, hkey, rfl⟩
    · exact h.buffersFit x hx
    · rw [h.eq_of_hasKey hfind hy hkey]
      exact hbuf

end

/-! ### `OUT` and `LAST` -/

/-- The invariants of `OUT` and `LAST`. -/
structure LogInv (p : Params) (out : Memory) (lastValid : Bool) (lastFrame : Bytes) : Prop where
  wf : out.wf
  lastSize : lastFrame.length = p.packetSize
  lastGood : lastValid = true → SentFrame p lastFrame
  lastIsTail : lastValid = true → out.latest p.packetSize = lastFrame

theorem LogInv.sent {p : Params} {out : Memory} {lv : Bool} {lf f : Bytes} (h : LogInv p out lv lf)
    (hf : SentFrame p f) : LogInv p (out.extend f) true f where
  wf := Memory.extend_wf h.wf f
  lastSize := hf.size
  lastGood := fun _ => hf
  lastIsTail := fun _ => by rw [← hf.size, Memory.latest_extend]

end Sys2Proof.Machine
end

section
/-! The invariants in the middle of a tick, where `STATE` may be `Idle` with a flush still to come (R23(c)), and the
operations that keep them. -/

namespace Sys2Proof.Machine

/-- The invariants but R23(c). -/
structure State.TickInv (s : State) : Prop where
  legal : s.cfg.legal
  inLog : s.inp.wf
  queue : QueueInv s.cfg s.engine s.q
  store : StoreInv s.cfg s.rs
  log : LogInv s.cfg s.out s.lastValid s.lastFrame
  registryTyped : ∀ k h, s.regRow k = .user h → h.ofType s.cfg = true
  deliveriesTyped : ∀ d ∈ s.delivered, d.handler.ofType s.cfg = true
  requestsTyped : ∀ r ∈ s.pending, r.typed s.cfg = true

/-- R23(c): an engine in `Idle` has nothing to flush, unless the transport has failed. -/
def State.Flushed (s : State) : Prop := s.engine = .idle → s.fault &&& ioErrBit = 0 → s.rs = []

theorem State.Inv.tickInv {s : State} (h : s.Inv) : s.TickInv where
  legal := h.legal
  inLog := h.inLog
  queue := ⟨h.busyHasHead, h.transfers, h.waiting, h.queueFits⟩
  store := ⟨h.keysDistinct, h.keysGood, h.storeFits, h.buffersFit⟩
  log := ⟨h.outLog, h.lastSize, h.lastGood, h.lastIsTail⟩
  registryTyped := h.registryTyped
  deliveriesTyped := h.deliveriesTyped
  requestsTyped := h.requestsTyped

theorem State.TickInv.inv {s : State} (h : s.TickInv) (hflushed : s.Flushed) : s.Inv where
  legal := h.legal
  outLog := h.log.wf
  inLog := h.inLog
  busyHasHead := h.queue.busyHasHead
  transfers := h.queue.transfers
  waiting := h.queue.waiting
  queueFits := h.queue.fits
  idleEmpty := hflushed
  keysDistinct := h.store.keysDistinct
  keysGood := h.store.keysGood
  storeFits := h.store.fits
  buffersFit := h.store.buffersFit
  lastSize := h.log.lastSize
  lastGood := h.log.lastGood
  lastIsTail := h.log.lastIsTail
  registryTyped := h.registryTyped
  deliveriesTyped := h.deliveriesTyped
  requestsTyped := h.requestsTyped

theorem State.Inv.flushed {s : State} (h : s.Inv) : s.Flushed := h.idleEmpty

/-! ### The field updates -/

section
variable {s : State}

theorem State.TickInv.setStatus (h : s.TickInv) (st : Status) : (s.setStatus st).TickInv := { h with }

theorem State.TickInv.setFault (h : s.TickInv) (b : BitVec 2) : (s.setFault b).TickInv := { h with }

theorem State.TickInv.dropTxAnswer (h : s.TickInv) : s.dropTxAnswer.TickInv := { h with }

theorem State.TickInv.setEngine (h : s.TickInv) {e : EngineState} (hq : QueueInv s.cfg e s.q) :
    (s.setEngine e).TickInv := { h with queue := hq }

theorem State.TickInv.setQ (h : s.TickInv) {q : List Transfer} (hq : QueueInv s.cfg s.engine q) :
    (s.setQ q).TickInv := { h with queue := hq }

theorem State.TickInv.setRs (h : s.TickInv) {rs : List Entry} (hrs : StoreInv s.cfg rs) :
    (s.setRs rs).TickInv := { h with store := hrs }

theorem State.TickInv.afterSend (h : s.TickInv) {f : Bytes} (hf : SentFrame s.cfg f) :
    (s.afterSend f).TickInv := { h with log := h.log.sent hf }

theorem State.TickInv.deliver (h : s.TickInv) {hd : Handler} (hhd : hd.ofType s.cfg = true) (e : Entry) :
    (s.deliver hd e).TickInv :=
  { h with deliveriesTyped := List.forall_mem_append.mpr ⟨h.deliveriesTyped, by simpa using hhd⟩ }

/-- A row of the registry after a write to a row. -/
theorem State.regRow_setRegRow (s : State) (k k' : Kind) (r : Registration) :
    (s.setRegRow k r).regRow k' = if k = k' then r else s.regRow k' := by
  unfold State.regRow State.setRegRow
  rw [Vector.get_eq_getElem, Vector.get_eq_getElem, Vector.getElem_set]
  simp only [BitVec.toNat_inj]

theorem State.TickInv.setRegRow (h : s.TickInv) (k : Kind) {hd : Handler} (hhd : hd.ofType s.cfg = true) :
    (s.setRegRow k (.user hd)).TickInv :=
  { h with
    registryTyped := by
      intro k' hd' hrow
      rw [State.regRow_setRegRow] at hrow
      split at hrow
      · cases hrow
        exact hhd
      · exact h.registryTyped k' hd' hrow }

/-! ### The operations on the store -/

theorem State.TickInv.rsAppend (h : s.TickInv) {t c : Byte} (hkey : ∀ buf, (⟨t, c, buf⟩ : Entry).goodKey s.cfg)
    (b : Bytes) : (s.rsAppend t c b).TickInv := by
  rcases s.rsAppend_cases t c b with ⟨e, hfind, hfits, heq⟩ | ⟨hfresh, hroom, hfits, heq⟩ | heq <;> rw [heq]
  · exact h.setRs (h.store.update hfind (by rwa [List.length_append]))
  · exact h.setRs (h.store.append hfresh hroom (hkey b) hfits)
  · exact h.setFault rsOvfBit

/-- A marker fits every entry: a bounded entry holds at least one byte (R7). -/
theorem marker_fits {p : Params} (hp : p.legal) (b : Byte) : exceeds [b].length p.rsEntryBytes = false := by
  obtain ⟨_, _, _, _, hpositive⟩ := hp
  refine exceeds_eq_false.mpr fun c hc => Nat.one_le_iff_ne_zero.mpr ?_
  rintro rfl
  exact hpositive hc

theorem State.TickInv.rsSetMarker (h : s.TickInv) {t c : Byte}
    (hkey : ∀ buf, (⟨t, c, buf⟩ : Entry).goodKey s.cfg) : (s.rsSetMarker t c).TickInv := by
  have hfits := marker_fits h.legal s.cfg.marker
  rcases s.rsSetMarker_cases t c with ⟨e, hfind, heq⟩ | ⟨hfresh, hroom, heq⟩ | heq <;> rw [heq]
  · exact h.setRs (h.store.update hfind hfits)
  · exact h.setRs (h.store.append hfresh hroom (hkey _) hfits)
  · exact h.setFault rsOvfBit

/-! ### Faults -/

theorem ioErrBit_raised_ne_zero (b : BitVec 2) : (b ||| ioErrBit) &&& ioErrBit ≠ 0 := by
  revert b; decide

/-- After a transport failure all invariants hold at once: R23(c) asks nothing any more. -/
theorem State.TickInv.raiseTransportFailure (h : s.TickInv) : s.raiseTransportFailure.Inv :=
  ((h.setFault ioErrBit).setStatus .ioFail).inv fun _ hclear => absurd hclear (ioErrBit_raised_ne_zero s.fault)

end

end Sys2Proof.Machine
end

section
/-! A tick from a good state ends in a good state: its row keeps the invariants but R23(c), and the flush or a transport
failure restores that one. -/

namespace Sys2Proof.Machine

/-- An operation leaves a state with a property where its transmissions went out, and a good one where one failed. -/
def Sent.Leaves (P : State → Prop) : Sent → Prop
  | .ok s => P s
  | .failed s => s.Inv

theorem Sent.Leaves.andThen {P Q : State → Prop} {r : Sent} {k : State → State} (h : r.Leaves P)
    (hk : ∀ x, P x → Q (k x)) : (r.andThen k).Leaves Q := by
  cases r with
  | ok x => exact hk x h
  | failed x => exact h

theorem Sent.Leaves.toOutcome {r : Sent} {t : State} (h : r.Leaves State.Inv) (ht : r.toOutcome = .next t) : t.Inv := by
  cases r <;> cases ht <;> exact h

section
variable {s : State}

/-! ### Transmissions -/

/-- `Send` and what is written after it, in one state. -/
theorem State.TickInv.send_andThen (h : s.TickInv) (f : Bytes) {P : State → Prop} {k : State → State}
    (hk : P (k (s.afterSend f))) : ((s.send f).andThen k).Leaves P := by
  rcases s.send_cases f with ⟨_, heq⟩ | ⟨_, heq⟩ <;> rw [heq]
  · exact hk
  · exact h.dropTxAnswer.raiseTransportFailure

theorem State.TickInv.send (h : s.TickInv) {f : Bytes} (hf : SentFrame s.cfg f) : (s.send f).Leaves State.TickInv := by
  rcases s.send_cases f with ⟨_, heq⟩ | ⟨_, heq⟩ <;> rw [heq]
  · exact h.afterSend hf
  · exact h.dropTxAnswer.raiseTransportFailure

theorem State.TickInv.sendRow (h : s.TickInv) (r : KindRow) (seq ctx : Byte) (body : Bytes) :
    (s.send (sentFrame s.cfg r seq ctx body)).Leaves State.TickInv := h.send (.ofRow h.legal r seq ctx body)

theorem State.TickInv.afterSendRow (h : s.TickInv) (r : KindRow) (seq ctx : Byte) (body : Bytes) :
    (s.afterSend (sentFrame s.cfg r seq ctx body)).TickInv := h.afterSend (.ofRow h.legal r seq ctx body)

/-! ### The rows -/

theorem State.TickInv.noopRow (h : s.TickInv) : (noopRow s).Leaves State.TickInv := by
  rcases noopRow_cases s with ⟨_, heq⟩ | ⟨hd, rest, hq, _, heq⟩ | ⟨_, _, heq⟩ <;> rw [heq]
  · exact h.sendRow _ _ _ _
  · have hne : s.q ≠ [] := hq ▸ List.cons_ne_nil hd rest
    exact h.send_andThen _ ((h.afterSendRow _ _ _ _).setEngine (h.queue.toBusy hne _))
  · exact h

theorem State.TickInv.ackRow (h : s.TickInv) : (ackRow s).Leaves State.TickInv := by
  rcases ackRow_cases s with ⟨_, heq⟩ | ⟨he, heq⟩ | ⟨hd, rest, _, hq, _, heq⟩ | ⟨hd, rest, _, hq, _, heq⟩ |
    ⟨_, _, heq⟩ | ⟨_, heq⟩ <;> rw [heq]
  · exact h.sendRow _ _ _ _
  · exact h.setEngine (h.queue.toBusy (h.queue.busyHasHead (.inl he)) _)
  · have hqueue := hq ▸ h.queue
    have hgood : hd.good := hqueue.transfers hd List.mem_cons_self
    exact h.send_andThen _ ((h.afterSend (.ofFragment h.legal hgood)).setQ (hqueue.setHead (hgood.advance _)))
  · have hqueue := hq ▸ h.queue
    exact h.send_andThen _ { h.afterSendRow .fin hd.nextSeq hd.ctx [] with queue := hqueue.pop }
  · exact h
  · exact h

theorem State.TickInv.rejectRow (h : s.TickInv) : (rejectRow s).Leaves State.TickInv := by
  rcases rejectRow_cases s with ⟨hvalid, heq⟩ | ⟨_, heq⟩ <;> rw [heq]
  · exact h.send (h.log.lastGood hvalid)
  · exact h

/-- START and END: an ACK, and a state that asks nothing of the queue. -/
theorem State.TickInv.ackThenSetEngine (h : s.TickInv) (f : Frame) {e : EngineState} (he : e = .idle ∨ e = .receiving) :
    ((s.send (ackFrame s.cfg f)).andThen fun s' => s'.setEngine e).Leaves State.TickInv :=
  h.send_andThen _ ((h.afterSendRow _ _ _ _).setEngine (h.queue.toQuiet he))

/-- The key under which a row of peer origin records (R23(d)). -/
theorem goodKey_peerType (p : Params) {r : KindRow}
    (hr : (kindOf r).toNat = 1 ∨ (kindOf r).toNat = 2 ∨ 7 ≤ (kindOf r).toNat) (c : Byte) (buf : Bytes) :
    (⟨peerType p r, c, buf⟩ : Entry).goodKey p := by
  simpa [Entry.goodKey, peerType] using hr

/-- The data rows are those of the kinds 7 to 127 (R54). -/
theorem kindOf_dataRow {r : KindRow} (hr : isDataRow r = true) : 7 ≤ (kindOf r).toNat := by
  cases r with
  | noop | ping | pong | ack | reject | start | fin => simp [isDataRow] at hr
  | data7 => decide
  | data8 x => revert x; decide
  | data16 x => revert x; decide
  | data32 x => revert x; decide
  | data64 x => revert x; decide

theorem State.TickInv.dataRow (h : s.TickInv) {r : KindRow} (hr : isDataRow r = true) (f : Frame) :
    (dataRow r f s).Leaves State.TickInv := by
  rcases dataRow_cases r f s with ⟨_, _, heq⟩ | ⟨_, heq⟩ <;> rw [heq]
  · have hkey := goodKey_peerType s.cfg (.inr (.inr (kindOf_dataRow hr))) f.ctx
    exact h.send_andThen _ ((h.afterSendRow _ _ _ _).rsAppend hkey f.body)
  · exact h

theorem State.TickInv.peerRow (h : s.TickInv) (r : KindRow) (f : Frame) : (peerRow r f s).Leaves State.TickInv := by
  cases r with
  | noop => exact h.noopRow
  | ping => exact h.rsSetMarker (goodKey_peerType s.cfg (.inl rfl) f.ctx)
  | pong => exact h.rsSetMarker (goodKey_peerType s.cfg (.inr (.inl rfl)) f.ctx)
  | ack => exact h.ackRow
  | reject => exact h.rejectRow
  | start => exact h.ackThenSetEngine f (.inr rfl)
  | fin => exact h.ackThenSetEngine f (.inl rfl)
  | data7 | data8 | data16 | data32 | data64 => exact h.dataRow rfl f

/-! ### The end of a tick -/

/-- A flush that goes through empties the store. -/
theorem State.TickInv.flushEntries (h : s.TickInv) {es : List Entry} (hes : s.rs = es) :
    (flushEntries es s).Leaves fun t => t.TickInv ∧ t.rs = [] := by
  induction es generalizing s with
  | nil => exact ⟨h, hes⟩
  | cons e es ih =>
    have hstore : StoreInv s.cfg es := (hes ▸ h.store).tail
    rcases flushEntries_cons_cases e es s with ⟨hd, hrow, heq⟩ | ⟨_, _, heq⟩ | ⟨_, _, heq⟩ | ⟨_, heq⟩ <;> rw [heq]
    · exact ih ((h.deliver (h.registryTyped _ hd hrow) e).setRs hstore) rfl
    · exact ih ((h.afterSendRow .pong 0 e.ctx []).setRs hstore) rfl
    · exact h.dropTxAnswer.raiseTransportFailure
    · exact ih (h.setRs hstore) rfl

theorem State.TickInv.endTick (h : s.TickInv) : s.endTick.Leaves State.Inv := by
  by_cases he : s.engine = .idle
  · rw [State.endTick_of_idle he]
    exact (h.flushEntries rfl).andThen fun t ⟨ht, hempty⟩ => (ht.setStatus .ok).inv fun _ _ => hempty
  · rw [State.endTick_of_busy he]
    exact (h.setStatus .ok).inv fun hidle => absurd hidle he

theorem Sent.Leaves.finishTick {r : Sent} {t : State} (h : r.Leaves State.TickInv) (ht : finishTick r = .next t) :
    t.Inv := by
  cases r with
  | ok x => exact Sent.Leaves.toOutcome (State.TickInv.endTick h) ht
  | failed x =>
    cases ht
    exact h

theorem State.TickInv.tickOnRow (h : s.TickInv) {r : KindRow} {f : Frame} {t : State}
    (ht : tickOnRow r f s = .next t) : t.Inv := by
  rw [tickOnRow_eq] at ht
  rcases tickPeerFrame_cases r f (Machine.peerRow r f) s with ⟨_, heq⟩ | ⟨_, heq⟩ <;> rw [heq] at ht
  · exact (h.peerRow r f).finishTick ht
  · exact (h.sendRow .reject f.seq f.ctx [peerType s.cfg r]).finishTick ht

end

end Sys2Proof.Machine
end

section
/-! The host commands, reset, and a step: each keeps all the invariants. -/

namespace Sys2Proof.Machine

variable {s t : State}

theorem State.Inv.setStatus (h : s.Inv) (st : Status) : (s.setStatus st).Inv := (h.tickInv.setStatus st).inv h.flushed

theorem State.Inv.execTick (h : s.Inv) (ht : execTick s = .next t) : t.Inv := by
  rcases execTick_cases s with heq | heq | ⟨r, f, heq⟩ <;> rw [heq] at ht
  · cases ht
    exact h.tickInv.raiseTransportFailure
  · exact Sent.Leaves.finishTick (r := .ok s) h.tickInv ht
  · exact h.tickInv.tickOnRow ht

theorem State.Inv.execSubmit (h : s.Inv) {payload : Bytes} {ty ctx : Byte}
    (ht : execSubmit payload ty ctx s = .next t) : t.Inv := by
  rcases execSubmit_cases payload ty ctx s with ⟨_, heq⟩ | ⟨_, _, heq⟩ | ⟨_, _, _, heq⟩ | ⟨hkind, hlen, hroom, heq⟩ <;>
    rw [heq] at ht <;> cases ht
  · exact h.setStatus _
  · exact h.setStatus _
  · exact h.setStatus _
  · have hqueue := h.tickInv.queue.append (newTransfer_good hkind hlen ctx) ⟨rfl, rfl⟩ hroom
    exact ((h.tickInv.setQ hqueue).setStatus .ok).inv h.flushed

theorem State.Inv.execRegister (h : s.Inv) {hd : Handler} (hhd : hd.ofType s.cfg = true) {ty : Byte}
    (ht : execRegister ty hd s = .next t) : t.Inv := by
  cases ht
  exact ((h.tickInv.setRegRow (kind ty) hhd).setStatus .ok).inv h.flushed

theorem State.Inv.execPing (h : s.Inv) (ht : execPing s = .next t) : t.Inv :=
  (h.tickInv.send_andThen _ (((h.tickInv.afterSendRow .ping 0 0 []).setStatus .ok).inv h.flushed)).toOutcome ht

/-- The only command that hands over a token is REGISTER (R68). -/
theorem typed_of_register {p : Params} {w : CmdWord} (hw : w.typed p = true) {ty : Byte} {hd : Handler}
    (hdec : decodeCommand w = .register ty hd) : hd.ofType p = true := by
  unfold decodeCommand at hdec
  split_ifs at hdec with _ _ hcode
  cases hdec
  simpa [CmdWord.typed, hcode] using hw

theorem State.Inv.execCommand (h : s.Inv) {w : CmdWord} (hw : w.typed s.cfg = true)
    (ht : exec (decodeCommand w) s = .next t) : t.Inv := by
  rcases decodeCommand_cases w with hdec | ⟨payload, ty, ctx, hdec⟩ | ⟨ty, hd, hdec⟩ | hdec <;> rw [hdec] at ht
  · exact h.execTick ht
  · exact h.execSubmit ht
  · exact h.execRegister (typed_of_register hw hdec) ht
  · exact h.execPing ht

/-! ### Requests -/

theorem State.Inv.setPending (h : s.Inv) {rest : List Request} (hrest : ∀ r ∈ rest, r.typed s.cfg = true) :
    ({ s with pending := rest } : State).Inv :=
  { h with requestsTyped := hrest }

theorem State.Inv.accept (h : s.Inv) {rest : List Request} (hrest : ∀ r ∈ rest, r.typed s.cfg = true) (peer : Bytes)
    (rx : RxAnswer) (tx : List Bool) : (s.accept rest peer rx tx).Inv :=
  { h with inLog := Memory.extend_wf h.inLog peer, requestsTyped := hrest }

/-! ### Reset -/

/-- No row of the registry holds a token after reset (R24). -/
theorem regRow_atReset_ne_user (k : Kind) (h : Handler) : s.applyReset.regRow k ≠ .user h := by
  intro hrow
  have hrows : ∀ i : Fin 128, Registry.atReset.get i = .autoPong ∨ Registry.atReset.get i = .unregistered := by decide
  rcases hrows ⟨k.toNat, k.isLt⟩ with hr | hr <;> cases hr.symm.trans hrow

/-- Reset makes a good state of any state with good parameters, channels, deliveries and requests (R24, R190). -/
theorem State.applyReset_inv (hlegal : s.cfg.legal) (hout : s.out.wf) (hinp : s.inp.wf)
    (hdel : ∀ d ∈ s.delivered, d.handler.ofType s.cfg = true) (hreq : ∀ r ∈ s.pending, r.typed s.cfg = true) :
    s.applyReset.Inv :=
  State.TickInv.inv (hflushed := fun _ _ => rfl)
    { legal := hlegal
      inLog := hinp
      queue := QueueInv.empty
      store := StoreInv.empty
      log := ⟨hout, zeros_length _, by simp [State.applyReset], by simp [State.applyReset]⟩
      registryTyped := fun k hd hrow => absurd hrow (regRow_atReset_ne_user k hd)
      deliveriesTyped := hdel
      requestsTyped := hreq }

theorem State.Inv.applyReset (h : s.Inv) : s.applyReset.Inv :=
  State.applyReset_inv h.legal h.outLog h.inLog h.deliveriesTyped h.requestsTyped

/-- A channel cut at an offset is a channel. -/
theorem Memory.take_wf {m : Memory} (h : m.wf) (n : Nat) : Memory.wf (m.take n) := by
  unfold Memory.wf at h ⊢
  rw [List.map_take, h, List.take_range, List.length_take]

/-- A delivery that stands is one the command made. -/
theorem mem_of_mem_firstEffects {size k pos n : Nat} {ds : List Delivery} {d : Delivery}
    (hd : d ∈ (firstEffects size k pos n ds).2) : d ∈ ds := by
  obtain ⟨_, hkept, _⟩ := firstEffects_spec size k pos n ds
  rw [hkept] at hd
  exact List.mem_of_mem_take hd

/-- A command cut short leaves a good state: of its frames and deliveries a part stands (R191). -/
theorem State.Inv.abandon (h : s.Inv) (ht : t.Inv) (hcfg : t.cfg = s.cfg) (k : Nat) : (s.abandon t k).Inv := by
  have hdel : ∀ d ∈ t.delivered, d.handler.ofType s.cfg = true := hcfg ▸ ht.deliveriesTyped
  exact State.applyReset_inv h.legal (Memory.take_wf ht.outLog _) h.inLog
    (List.forall_mem_append.mpr
      ⟨h.deliveriesTyped, fun d hd => hdel d (List.mem_of_mem_drop (mem_of_mem_firstEffects hd))⟩)
    h.requestsTyped

/-- The outcome of a command cut short comes from the outcome it would have had. -/
theorem State.cutShort_next {k : Nat} {o : Host.Outcome State Fault Refusal} (h : s.cutShort k o = .next t) :
    ∃ u, o = .next u ∧ t = s.abandon u k := by
  cases o with
  | next u =>
    cases h
    exact ⟨u, rfl, rfl⟩
  | fault r => cases h
  | refused r => cases h

/-! ### The step -/

/-- Settles O17: a step runs a command, a reset, or a command cut short, each of which keeps the invariants. -/
theorem stepKeepsInvariants : Obligations.StepKeepsInvariants := by
  intro s t h hstep
  have htyped := h.requestsTyped
  rcases pending_cases s with hp | ⟨w, peer, rx, tx, rest, hp⟩ | ⟨rest, hp⟩ | ⟨w, peer, rx, tx, k, rest, hp⟩
  · rw [step_of_no_request hp] at hstep
    cases hstep
    exact h
  · obtain ⟨hw, hrest⟩ := List.forall_mem_cons.mp (hp ▸ htyped)
    rw [step_of_command hp] at hstep
    exact (h.accept hrest peer rx tx).execCommand hw hstep
  · obtain ⟨_, hrest⟩ := List.forall_mem_cons.mp (hp ▸ htyped)
    rw [step_of_reset hp] at hstep
    cases hstep
    exact (h.setPending hrest).applyReset
  · obtain ⟨hw, hrest⟩ := List.forall_mem_cons.mp (hp ▸ htyped)
    have hrun := h.accept hrest peer rx tx
    rw [step_of_abandoned hp] at hstep
    obtain ⟨u, hexec, rfl⟩ := State.cutShort_next hstep
    exact hrun.abandon (hrun.execCommand hw hexec) (exec_sameInputs hexec).cfg k

end Sys2Proof.Machine
end

section
/-! The channels read back (R31), what the host reads (R25), and the chunk a TICK reads (R32, R105). -/

namespace Sys2Proof.Machine

/-! ### Reading a channel -/

/-- Cells at consecutive offsets from `p` up hold at the `i`-th of them the `i`-th byte. -/
theorem Memory.read_of_consecutive {m : Memory} {p : Nat} (h : m.map Prod.fst = List.range' p m.length) (i : Nat) :
    m.read (p + i) = (m.map Prod.snd)[i]? := by
  induction m generalizing p i with
  | nil => rfl
  | cons c m ih =>
    simp only [List.map_cons, List.length_cons, List.range'_succ, List.cons.injEq] at h
    obtain ⟨rfl, hrest⟩ := h
    cases i with
    | zero => simp [Memory.read]
    | succ i =>
      have htail := ih hrest i
      rw [Nat.add_assoc, Nat.add_comm 1] at htail
      simpa [Memory.read] using htail

/-- A channel in canonical form holds at an offset the byte in that place. -/
theorem Memory.read_of_wf {m : Memory} (h : m.wf) (a : Nat) : m.read a = (m.map Prod.snd)[a]? := by
  have hcells : m.map Prod.fst = List.range' 0 m.length := by rw [← List.range_eq_range']; exact h
  simpa using Memory.read_of_consecutive hcells a

/-- The bytes of a channel after an append. -/
theorem Memory.extend_bytes (m : Memory) (bs : Bytes) : (m.extend bs).map Prod.snd = m.map Prod.snd ++ bs := by
  simp [Memory.extend]

/-- An append changes no byte below the end of the channel, in canonical form or not (R31). -/
theorem Memory.read_extend_of_lt {m : Memory} {a : Nat} (h : a < m.top) (bs : Bytes) :
    (m.extend bs).read a = m.read a := by
  have hnone : (cellsFrom m.top bs).find? (fun c => c.1 == a) = none := by
    rw [List.find?_eq_none]
    intro c hc
    have hmem : c.1 ∈ List.range' m.top bs.length := cellsFrom_fst m.top bs ▸ List.mem_map_of_mem hc
    have := (List.mem_range'_1.mp hmem).1
    simp only [beq_iff_eq]
    omega
  simp [Memory.read, Memory.extend, List.find?_append, hnone]

/-- Settles O26: before and after the append the channel is canonical, so it reads as its list of bytes, to which the new
bytes are appended. -/
theorem appendedBytesReadBack : Obligations.AppendedBytesReadBack := by
  intro m bs a h
  rw [Memory.read_of_wf (Memory.extend_wf h bs), Memory.extend_bytes]
  split
  · next hold => rw [Memory.read_of_wf h, List.getElem?_append_left (by simpa using hold)]
  · next hnew => rw [List.getElem?_append_right (by simpa using hnew), List.length_map]

/-! ### What the host reads -/

/-- Settles O18: the three host reads are the fields, and the codes are those of the tables. -/
theorem hostReadCodes : Obligations.HostReadCodes :=
  ⟨fun _ => ⟨rfl, rfl, rfl⟩, rfl, rfl⟩

/-! ### The chunk of a TICK -/

theorem exec_rxInstr (r : KindRow) (f : Frame) (s : State) : exec (rxInstr r f) s = tickOnRow r f s := by
  cases r <;> rfl

/-- The instruction in a chunk is the tick on the frame in it (R72, R106). -/
theorem exec_decodeInbound (raw : Bytes) (s : State) :
    exec (decodeInbound s.cfg raw) s = tickOnFrame (decodeFrame s.cfg raw).1 (decodeFrame s.cfg raw).2 s := by
  unfold decodeInbound classify tickOnFrame
  split
  · rfl
  · exact exec_rxInstr _ _ s

/-- A TICK whose read returns a chunk runs the instruction in it (R105). -/
theorem execTick_of_read {s : State} {raw : Bytes} (h : s.rxRead = some raw) :
    execTick s = exec (decodeInbound s.cfg raw) s := by
  simp only [execTick, h, exec_decodeInbound]

theorem decodeCommand_tick {w : CmdWord} (h : w.code = 0) : decodeCommand w = .tick := by simp [decodeCommand, h]

/-- The most recent bytes, when the peer has just appended a whole frame, are that frame (R32, R35). -/
theorem State.rxRead_accept_latest (s : State) (rest : List Request) {peer : Bytes} (tx : List Bool)
    (h : peer.length = s.cfg.packetSize) : (s.accept rest peer .latest tx).rxRead = some peer := by
  have hread : (s.accept rest peer .latest tx).rxRead = some ((s.inp.extend peer).latest s.cfg.packetSize) := rfl
  rw [hread, ← h, Memory.latest_extend]

/-- Settles O22: the step runs a TICK, whose read returns the frame just appended. -/
theorem tickReadsTheLatestFrame : Obligations.TickReadsTheLatestFrame := by
  intro s w peer tx rest hp hcode hlen
  rw [step_of_command hp, decodeCommand_tick hcode]
  exact execTick_of_read (s.rxRead_accept_latest rest tx hlen)

end Sys2Proof.Machine
end

section
/-! The effects of a command outside the block (R31, R33, R41(b)): the frames it appends to `OUT` and the callbacks it
delivers; every instruction appends whole frames and delivers between them, and a command cut short by reset leaves the first
of its effects standing (R191). -/

namespace Sys2Proof.Machine

/-! ### Effects -/

/-- From `s` to `t` the frames `fs` are appended, all of `PACKET_SIZE` bytes, and the deliveries `ds` are made, in the order
of the lists, each when `OUT` held some of the frames. -/
structure Effects (s t : State) (fs : List Bytes) (ds : List Delivery) : Prop where
  cfg : t.cfg = s.cfg
  out : t.out = s.out.extend fs.flatten
  delivered : t.delivered = s.delivered ++ ds
  whole : ∀ f ∈ fs, f.length = s.cfg.packetSize
  between : ∀ d ∈ ds, ∃ i, i ≤ fs.length ∧ d.outLen = s.out.top + i * s.cfg.packetSize
  ordered : ds.Pairwise fun d e => d.outLen ≤ e.outLen

/-- `t` is reached from `s` with some effects. -/
def HasEffects (s t : State) : Prop := ∃ fs ds, Effects s t fs ds

/-- Neither an effect outside the block nor a change of the parameters. -/
structure Silent (s t : State) : Prop where
  cfg : t.cfg = s.cfg
  out : t.out = s.out
  delivered : t.delivered = s.delivered

/-- Whole frames are `PACKET_SIZE` bytes each. -/
theorem flatten_length_of_whole {p : Params} {fs : List Bytes} (h : ∀ f ∈ fs, f.length = p.packetSize) :
    fs.flatten.length = fs.length * p.packetSize := by
  rw [List.length_flatten, List.map_congr_left h, List.map_const', List.sum_replicate, smul_eq_mul]

section
variable {s t u : State} {fs gs : List Bytes} {ds es : List Delivery}

theorem Effects.flatten_length (h : Effects s t fs ds) : fs.flatten.length = fs.length * s.cfg.packetSize :=
  flatten_length_of_whole h.whole

theorem Effects.top (h : Effects s t fs ds) : t.out.top = s.out.top + fs.length * s.cfg.packetSize := by
  rw [h.out, Memory.top_extend, h.flatten_length]

theorem Effects.out_length (h : Effects s t fs ds) : t.out.length = s.out.length + fs.length * s.cfg.packetSize := by
  rw [h.out, Memory.extend, List.length_append, cellsFrom_length, h.flatten_length]

theorem Effects.trans (h : Effects s t fs ds) (g : Effects t u gs es) : Effects s u (fs ++ gs) (ds ++ es) where
  cfg := g.cfg.trans h.cfg
  out := by rw [g.out, h.out, List.flatten_append, Memory.extend_append]
  delivered := by rw [g.delivered, h.delivered, List.append_assoc]
  whole := List.forall_mem_append.mpr ⟨h.whole, h.cfg ▸ g.whole⟩
  between := by
    refine List.forall_mem_append.mpr ⟨fun d hd => ?_, fun d hd => ?_⟩
    · obtain ⟨i, hi, hlen⟩ := h.between d hd
      exact ⟨i, by rw [List.length_append]; omega, hlen⟩
    · obtain ⟨i, hi, hlen⟩ := g.between d hd
      refine ⟨fs.length + i, by rw [List.length_append]; omega, ?_⟩
      rw [hlen, h.top, h.cfg, Nat.add_mul, Nat.add_assoc]
  ordered := by
    refine List.pairwise_append.mpr ⟨h.ordered, g.ordered, fun d hd e he => ?_⟩
    obtain ⟨i, hi, hd'⟩ := h.between d hd
    obtain ⟨j, _, he'⟩ := g.between e he
    have hle : i * s.cfg.packetSize ≤ fs.length * s.cfg.packetSize := Nat.mul_le_mul_right _ hi
    rw [hd', he', h.top]
    omega

theorem HasEffects.trans (h : HasEffects s t) (g : HasEffects t u) : HasEffects s u := by
  obtain ⟨fs, ds, h⟩ := h
  obtain ⟨gs, es, g⟩ := g
  exact ⟨fs ++ gs, ds ++ es, h.trans g⟩

theorem HasEffects.cfg (h : HasEffects s t) : t.cfg = s.cfg := by
  obtain ⟨fs, ds, h⟩ := h
  exact h.cfg

theorem Silent.hasEffects (h : Silent s t) : HasEffects s t :=
  ⟨[], [], h.cfg, by simp [h.out], by simp [h.delivered], by simp, by simp, by simp⟩

theorem HasEffects.refl (s : State) : HasEffects s s := Silent.hasEffects ⟨rfl, rfl, rfl⟩

/-! ### The shared operations -/

theorem State.send_hasEffects (s : State) {f : Bytes} (hf : f.length = s.cfg.packetSize) :
    HasEffects s (s.send f).state := by
  rcases s.send_cases f with ⟨_, heq⟩ | ⟨_, heq⟩ <;> rw [heq]
  · exact ⟨[f], [], rfl, by simp [Sent.state], by simp [Sent.state], by simpa using hf, by simp, by simp⟩
  · exact Silent.hasEffects ⟨rfl, rfl, rfl⟩

/-- The frame of a row has the size of a frame. -/
theorem State.sendRow_hasEffects {s : State} (hp : s.cfg.legal) (r : KindRow) (seq ctx : Byte) (body : Bytes) :
    HasEffects s (s.send (sentFrame s.cfg r seq ctx body)).state := s.send_hasEffects (encodeFrame_length _ hp _ _ _ _)

theorem State.deliver_hasEffects (s : State) (hd : Handler) (e : Entry) : HasEffects s (s.deliver hd e) :=
  ⟨[], [_], rfl, by simp, rfl, by simp, by simp, by simp⟩

theorem HasEffects.andThen {r : Sent} {k : State → State} (h : HasEffects s r.state) (hk : ∀ x, Silent x (k x)) :
    HasEffects s (r.andThen k).state := by
  cases r with
  | ok x => exact h.trans (hk x).hasEffects
  | failed x => exact h

theorem State.rsAppend_silent (s : State) (t c : Byte) (b : Bytes) : Silent s (s.rsAppend t c b) := by
  rcases s.rsAppend_cases t c b with ⟨_, _, _, h⟩ | ⟨_, _, _, h⟩ | h <;> rw [h] <;> exact ⟨rfl, rfl, rfl⟩

theorem State.rsSetMarker_silent (s : State) (t c : Byte) : Silent s (s.rsSetMarker t c) := by
  rcases s.rsSetMarker_cases t c with ⟨_, _, h⟩ | ⟨_, _, h⟩ | h <;> rw [h] <;> exact ⟨rfl, rfl, rfl⟩

theorem flushEntries_hasEffects (es : List Entry) {s : State} (hp : s.cfg.legal) :
    HasEffects s (flushEntries es s).state := by
  induction es generalizing s with
  | nil => exact .refl s
  | cons e es ih =>
    have hpong : HasEffects s (s.send (pongFrame s.cfg e.ctx)).state := State.sendRow_hasEffects hp .pong 0 e.ctx []
    have hset : ∀ x : State, Silent x (x.setRs es) := fun _ => ⟨rfl, rfl, rfl⟩
    rcases flushEntries_cons_cases e es s with ⟨hd, _, heq⟩ | ⟨_, hready, heq⟩ | ⟨_, _, heq⟩ | ⟨_, heq⟩ <;> rw [heq]
    · exact (s.deliver_hasEffects hd e).trans ((hset _).hasEffects.trans (ih hp))
    · rw [State.send_of_ready hready] at hpong
      exact hpong.trans ((hset _).hasEffects.trans (ih hp))
    · exact Silent.hasEffects ⟨rfl, rfl, rfl⟩
    · exact (hset s).hasEffects.trans (ih hp)

theorem State.endTick_hasEffects {s : State} (hp : s.cfg.legal) : HasEffects s s.endTick.state := by
  refine HasEffects.andThen ?_ fun _ => ⟨rfl, rfl, rfl⟩
  split
  · exact flushEntries_hasEffects s.rs hp
  · exact .refl s

theorem HasEffects.finishTick {r : Sent} (hp : s.cfg.legal) (h : HasEffects s r.state) (ht : finishTick r = .next t) :
    HasEffects s t := by
  cases r with
  | ok x =>
    rw [finishTick_ok, Sent.toOutcome_eq] at ht
    cases ht
    exact h.trans (State.endTick_hasEffects (show x.cfg.legal from h.cfg ▸ hp))
  | failed x =>
    cases ht
    exact h

/-- A tick that does nothing but end. -/
theorem finishTick_ok_hasEffects (hp : s.cfg.legal) (h : finishTick (.ok s) = .next t) : HasEffects s t :=
  HasEffects.finishTick (r := .ok s) hp (.refl s) h

/-! ### The rows -/

theorem noopRow_hasEffects (hp : s.cfg.legal) : HasEffects s (noopRow s).state := by
  rcases noopRow_cases s with ⟨_, h⟩ | ⟨_, _, _, _, h⟩ | ⟨_, _, h⟩ <;> rw [h]
  · exact State.sendRow_hasEffects hp _ _ _ _
  · exact (State.sendRow_hasEffects hp _ _ _ _).andThen fun _ => ⟨rfl, rfl, rfl⟩
  · exact .refl s

theorem ackRow_hasEffects (hp : s.cfg.legal) : HasEffects s (ackRow s).state := by
  rcases ackRow_cases s with ⟨_, h⟩ | ⟨_, h⟩ | ⟨_, _, _, _, _, h⟩ | ⟨_, _, _, _, _, h⟩ | ⟨_, _, h⟩ | ⟨_, h⟩ <;> rw [h]
  · exact State.sendRow_hasEffects hp _ _ _ _
  · exact Silent.hasEffects ⟨rfl, rfl, rfl⟩
  · exact (s.send_hasEffects (encodeFrame_length _ hp _ _ _ _)).andThen fun _ => ⟨rfl, rfl, rfl⟩
  · exact (State.sendRow_hasEffects hp _ _ _ _).andThen fun _ => ⟨rfl, rfl, rfl⟩
  · exact .refl s
  · exact .refl s

/-- A REJECT sends `LAST` again, which is a whole frame (R16, R127). -/
theorem rejectRow_hasEffects (hlast : s.lastFrame.length = s.cfg.packetSize) : HasEffects s (rejectRow s).state := by
  rcases rejectRow_cases s with ⟨_, h⟩ | ⟨_, h⟩ <;> rw [h]
  · exact s.send_hasEffects hlast
  · exact .refl s

theorem dataRow_hasEffects (hp : s.cfg.legal) (r : KindRow) (f : Frame) : HasEffects s (dataRow r f s).state := by
  rcases dataRow_cases r f s with ⟨_, _, h⟩ | ⟨_, h⟩ <;> rw [h]
  · exact (State.sendRow_hasEffects hp _ _ _ _).andThen fun x => x.rsAppend_silent _ _ _
  · exact .refl s

theorem peerRow_hasEffects (hp : s.cfg.legal) (hlast : s.lastFrame.length = s.cfg.packetSize) (r : KindRow)
    (f : Frame) : HasEffects s (peerRow r f s).state := by
  cases r with
  | noop => exact noopRow_hasEffects hp
  | ping | pong => exact (s.rsSetMarker_silent _ _).hasEffects
  | ack => exact ackRow_hasEffects hp
  | reject => exact rejectRow_hasEffects hlast
  | start | fin => exact (State.sendRow_hasEffects hp _ _ _ _).andThen fun _ => ⟨rfl, rfl, rfl⟩
  | data7 | data8 | data16 | data32 | data64 => exact dataRow_hasEffects hp _ f

theorem tickOnRow_hasEffects (hp : s.cfg.legal) (hlast : s.lastFrame.length = s.cfg.packetSize) {r : KindRow}
    {f : Frame} (h : tickOnRow r f s = .next t) : HasEffects s t := by
  rw [tickOnRow_eq] at h
  rcases tickPeerFrame_cases r f (peerRow r f) s with ⟨_, heq⟩ | ⟨_, heq⟩ <;> rw [heq] at h
  · exact (peerRow_hasEffects hp hlast r f).finishTick hp h
  · exact (State.sendRow_hasEffects hp .reject f.seq f.ctx [peerType s.cfg r]).finishTick hp h

/-! ### The instructions -/

theorem HasEffects.toOutcome {r : Sent} (h : HasEffects s r.state) (ht : r.toOutcome = .next t) : HasEffects s t := by
  rw [Sent.toOutcome_eq] at ht
  cases ht
  exact h

theorem execTick_hasEffects (hp : s.cfg.legal) (hlast : s.lastFrame.length = s.cfg.packetSize)
    (h : execTick s = .next t) : HasEffects s t := by
  rcases execTick_cases s with heq | heq | ⟨r, f, heq⟩ <;> rw [heq] at h
  · cases h
    exact Silent.hasEffects ⟨rfl, rfl, rfl⟩
  · exact finishTick_ok_hasEffects hp h
  · exact tickOnRow_hasEffects hp hlast h

theorem execSubmit_silent {payload : Bytes} {ty ctx : Byte} (h : execSubmit payload ty ctx s = .next t) :
    Silent s t := by
  rcases execSubmit_cases payload ty ctx s with ⟨_, heq⟩ | ⟨_, _, heq⟩ | ⟨_, _, _, heq⟩ | ⟨_, _, _, heq⟩ <;>
    rw [heq] at h <;> cases h <;> exact ⟨rfl, rfl, rfl⟩

theorem execPing_hasEffects (hp : s.cfg.legal) (h : execPing s = .next t) : HasEffects s t := by
  have hping : HasEffects s (s.send (pingFrame s.cfg)).state := State.sendRow_hasEffects hp .ping 0 0 []
  exact (hping.andThen (k := fun x => x.setStatus .ok) fun _ => ⟨rfl, rfl, rfl⟩).toOutcome h

/-- Every instruction leads on by whole frames and by deliveries between them (R31, R37, R41(b)). -/
theorem exec_hasEffects {i : Instr} (hp : s.cfg.legal) (hlast : s.lastFrame.length = s.cfg.packetSize)
    (h : exec i s = .next t) : HasEffects s t := by
  cases i with
  | rxOwnOrigin k f => exact finishTick_ok_hasEffects hp h
  | rxNoop f => exact tickOnRow_hasEffects (r := .noop) hp hlast h
  | rxPing f => exact tickOnRow_hasEffects (r := .ping) hp hlast h
  | rxPong f => exact tickOnRow_hasEffects (r := .pong) hp hlast h
  | rxAck f => exact tickOnRow_hasEffects (r := .ack) hp hlast h
  | rxReject f => exact tickOnRow_hasEffects (r := .reject) hp hlast h
  | rxStart f => exact tickOnRow_hasEffects (r := .start) hp hlast h
  | rxEnd f => exact tickOnRow_hasEffects (r := .fin) hp hlast h
  | rxData0E f => exact tickOnRow_hasEffects (r := .data7) hp hlast h
  | rxData10 x f => exact tickOnRow_hasEffects (r := .data8 x) hp hlast h
  | rxData20 x f => exact tickOnRow_hasEffects (r := .data16 x) hp hlast h
  | rxData40 x f => exact tickOnRow_hasEffects (r := .data32 x) hp hlast h
  | rxData80 x f => exact tickOnRow_hasEffects (r := .data64 x) hp hlast h
  | txNoop | txPing | txPong | txAck | txReject | txStart | txEnd | txData0F | txData11 | txData21 | txData41
  | txData81 => exact (State.sendRow_hasEffects hp _ _ _ _).toOutcome h
  | tick => exact execTick_hasEffects hp hlast h
  | submit payload ty ctx => exact (execSubmit_silent h).hasEffects
  | register ty hd =>
    cases h
    exact Silent.hasEffects ⟨rfl, rfl, rfl⟩
  | ping => exact execPing_hasEffects hp h

end

/-- Settles O27: every instruction has effects, and an append changes no byte below the end of the channel. -/
theorem outGrowsByWholeFrames : Obligations.OutGrowsByWholeFrames := by
  intro i s t hp hlast h
  obtain ⟨fs, ds, heff⟩ := exec_hasEffects hp hlast h
  refine ⟨⟨fs, heff.whole, heff.out⟩, fun a ha => ?_⟩
  rw [heff.out, Memory.read_extend_of_lt ha]

/-! ### A command cut short -/

theorem State.regRow_applyReset (s : State) (k : Kind) :
    s.applyReset.regRow k = if k = 1 then .autoPong else .unregistered := by
  show Registry.atReset.get ⟨k.toNat, k.isLt⟩ = _
  revert k; decide

/-- What stands of a command cut short after `k` effects, in the order of `firstEffects` (R191). -/
theorem Effects.abandon {s t : State} {fs : List Bytes} {ds : List Delivery} (h : Effects s t fs ds)
    (hp : s.cfg.legal) (k : Nat) :
    ∃ n m, n ≤ fs.length ∧ m ≤ ds.length ∧ n + m = min k (fs.length + ds.length) ∧
      (s.abandon t k).out = t.out.take (s.out.length + n * s.cfg.packetSize) ∧
      (s.abandon t k).delivered = s.delivered ++ ds.take m ∧
      (∀ d ∈ ds.take m, d.outLen ≤ s.out.top + n * s.cfg.packetSize) ∧
      ∀ d ∈ ds.drop m, s.out.top + n * s.cfg.packetSize ≤ d.outLen := by
  have hsize : 0 < s.cfg.packetSize := by have := hp.1; omega
  have hframes : (t.out.length - s.out.length) / s.cfg.packetSize = fs.length := by
    rw [h.out_length, Nat.add_sub_cancel_left, Nat.mul_div_cancel _ hsize]
  have hmade : t.delivered.drop s.delivered.length = ds := by rw [h.delivered, List.drop_left]
  obtain ⟨hn, hkept, hcount⟩ := firstEffects_spec s.cfg.packetSize k s.out.top fs.length ds
  obtain ⟨hbefore, hafter⟩ := firstEffects_order s.cfg.packetSize k s.out.top fs.length ds h.between h.ordered
  have hm : (firstEffects s.cfg.packetSize k s.out.top fs.length ds).2.length ≤ ds.length := by
    rw [hkept]
    exact List.length_take_le' _ _
  refine ⟨_, _, hn, hm, hcount, ?_, ?_, hkept ▸ hbefore, hafter⟩
  · simp only [State.abandon, State.applyReset, hframes, hmade]
  · simp only [State.abandon, State.applyReset, hframes, hmade, ← hkept]

/-- Settles O15: the command has effects, and of those the first so many stand, in the order of `firstEffects`. -/
theorem resetDuringCommandAbandonsIt : Obligations.ResetDuringCommandAbandonsIt := by
  intro s t0 w peer rx tx k rest hpending hp hlast hexec
  obtain ⟨fs, ds, heff⟩ := exec_hasEffects (s := s.accept rest peer rx tx) hp hlast hexec
  obtain ⟨n, m, hn, hm, hcount, hout, hdel, hbefore, hafter⟩ := heff.abandon hp k
  have hmade : t0.delivered = s.delivered ++ ds := heff.delivered
  refine ⟨(s.accept rest peer rx tx).abandon t0 k, fs.length, n, m, ?_, rfl, rfl, rfl, rfl,
    State.regRow_applyReset _ _, fun kd hkd => ?_, rfl, rfl, rfl, rfl, heff.out_length, hn, hout, ?_, ?_, ?_, ?_, ?_⟩
  · rw [step_of_abandoned hpending]
    exact congrArg (State.cutShort _ k) hexec
  · exact (State.regRow_applyReset _ kd).trans (if_neg hkd)
  · rw [hmade, List.length_append]
    omega
  · rw [hdel, hmade, List.take_length_add_append]
    rfl
  · rw [hmade, List.length_append, Nat.add_sub_cancel_left]
    exact hcount
  · rw [hdel]
    exact List.drop_left.symm ▸ hbefore
  · rw [hmade, List.drop_length_add_append]
    exact hafter

end Sys2Proof.Machine
end

section
/-! The idle-flush on entries whose PONGs all go out: one closed form of the state it leaves (R155, R157), from which the
whole flush and the flush that stops at a failed PONG (R180(c)) are read off. -/

namespace Sys2Proof.Machine

/-! ### The deliveries of a flush -/

/-- The deliveries a flush of the entries makes, the first of them when `OUT` has length `pos`. -/
def State.flushDeliveries (s : State) : Nat → List Entry → List Delivery
  | _, [] => []
  | pos, e :: es =>
    match s.regRow (kind e.ty) with
    | .user h => ⟨h, e.ty, e.ctx, e.buf, pos⟩ :: s.flushDeliveries pos es
    | .autoPong => s.flushDeliveries (pos + (pongFrame s.cfg e.ctx).length) es
    | .unregistered => s.flushDeliveries pos es

section
variable {s : State} {e : Entry}

theorem State.flushDeliveries_cons_user {h : Handler} (hr : s.regRow (kind e.ty) = .user h) (pos : Nat)
    (es : List Entry) :
    s.flushDeliveries pos (e :: es) = ⟨h, e.ty, e.ctx, e.buf, pos⟩ :: s.flushDeliveries pos es := by
  simp [State.flushDeliveries, hr]

theorem State.flushDeliveries_cons_autoPong (hr : s.regRow (kind e.ty) = .autoPong) (pos : Nat) (es : List Entry) :
    s.flushDeliveries pos (e :: es) = s.flushDeliveries (pos + (pongFrame s.cfg e.ctx).length) es := by
  simp [State.flushDeliveries, hr]

theorem State.flushDeliveries_cons_unregistered (hr : s.regRow (kind e.ty) = .unregistered) (pos : Nat)
    (es : List Entry) : s.flushDeliveries pos (e :: es) = s.flushDeliveries pos es := by
  simp [State.flushDeliveries, hr]

end

/-- They depend on the registry and the parameters only. -/
theorem State.flushDeliveries_congr {s t : State} (hreg : t.reg = s.reg) (hcfg : t.cfg = s.cfg) (pos : Nat)
    (es : List Entry) : t.flushDeliveries pos es = s.flushDeliveries pos es := by
  have hrow : ∀ k, t.regRow k = s.regRow k := fun k => by rw [State.regRow, State.regRow, hreg]
  induction es generalizing pos with
  | nil => rfl
  | cons e es ih => simp only [State.flushDeliveries, hrow, hcfg, ih]

@[simp] theorem State.flushDeliveries_setRs (s : State) (rs : List Entry) (pos : Nat) (es : List Entry) :
    (s.setRs rs).flushDeliveries pos es = s.flushDeliveries pos es :=
  State.flushDeliveries_congr (s.setRs_reg rs) (s.setRs_cfg rs) pos es
@[simp] theorem State.flushDeliveries_deliver (s : State) (h : Handler) (e : Entry) (pos : Nat) (es : List Entry) :
    (s.deliver h e).flushDeliveries pos es = s.flushDeliveries pos es :=
  State.flushDeliveries_congr (s.deliver_reg h e) (s.deliver_cfg h e) pos es
@[simp] theorem State.flushDeliveries_setLast (s : State) (f : Bytes) (pos : Nat) (es : List Entry) :
    (s.setLast f).flushDeliveries pos es = s.flushDeliveries pos es :=
  State.flushDeliveries_congr (s.setLast_reg f) (s.setLast_cfg f) pos es
@[simp] theorem State.flushDeliveries_extendOut (s : State) (f : Bytes) (pos : Nat) (es : List Entry) :
    (s.extendOut f).flushDeliveries pos es = s.flushDeliveries pos es :=
  State.flushDeliveries_congr (s.extendOut_reg f) (s.extendOut_cfg f) pos es
@[simp] theorem State.flushDeliveries_dropTxAnswer (s : State) (pos : Nat) (es : List Entry) :
    s.dropTxAnswer.flushDeliveries pos es = s.flushDeliveries pos es :=
  State.flushDeliveries_congr s.dropTxAnswer_reg s.dropTxAnswer_cfg pos es

/-- They hand over what `handedOver` says. -/
theorem State.flushDeliveries_call (s : State) (pos : Nat) (es : List Entry) :
    (s.flushDeliveries pos es).map Delivery.call = s.handedOver es := by
  induction es generalizing pos with
  | nil => rfl
  | cons e es ih =>
    cases hr : s.regRow (kind e.ty) with
    | user h =>
      rw [State.flushDeliveries_cons_user hr, State.handedOver_cons_user hr, List.map_cons, ih]
      rfl
    | autoPong => rw [State.flushDeliveries_cons_autoPong hr, State.handedOver_cons_other (by simp [hr]), ih]
    | unregistered => rw [State.flushDeliveries_cons_unregistered hr, State.handedOver_cons_other (by simp [hr]), ih]

theorem State.flushDeliveries_length (s : State) (pos : Nat) (es : List Entry) :
    (s.flushDeliveries pos es).length = (s.handedOver es).length := by
  rw [← s.flushDeliveries_call pos es, List.length_map]

/-- The later entries are delivered after the PONGs of the earlier ones (R41(b)). -/
theorem State.flushDeliveries_append (s : State) (pos : Nat) (xs ys : List Entry) :
    s.flushDeliveries pos (xs ++ ys) =
      s.flushDeliveries pos xs ++ s.flushDeliveries (pos + (s.pongFrames xs).flatten.length) ys := by
  induction xs generalizing pos with
  | nil => rfl
  | cons e xs ih =>
    rw [List.cons_append]
    cases hr : s.regRow (kind e.ty) with
    | user h =>
      rw [State.flushDeliveries_cons_user hr, State.flushDeliveries_cons_user hr, ih,
        State.pongFrames_cons_other (by simp [hr]), List.cons_append]
    | autoPong =>
      rw [State.flushDeliveries_cons_autoPong hr, State.flushDeliveries_cons_autoPong hr, ih,
        State.pongFrames_cons_autoPong hr, List.flatten_cons, List.length_append, Nat.add_assoc]
    | unregistered =>
      rw [State.flushDeliveries_cons_unregistered hr, State.flushDeliveries_cons_unregistered hr, ih,
        State.pongFrames_cons_other (by simp [hr])]

theorem State.pongFrames_flatten_length {s : State} (hp : s.cfg.legal) (es : List Entry) :
    (s.pongFrames es).flatten.length = (s.pongFrames es).length * s.cfg.packetSize := by
  refine flatten_length_of_whole fun f hf => ?_
  obtain ⟨e, _, he⟩ := List.mem_filterMap.mp hf
  split at he <;> cases he
  exact encodeFrame_length _ hp _ _ _ _

/-- The delivery of an entry with a handler: after those of the entries before it, when `OUT` held their PONGs. -/
theorem State.flushDeliveries_getElem {s : State} (hp : s.cfg.legal) (pos : Nat) (before after : List Entry)
    {e : Entry} {h : Handler} (hr : s.regRow (kind e.ty) = .user h) :
    (s.flushDeliveries pos (before ++ e :: after))[(s.handedOver before).length]? =
      some ⟨h, e.ty, e.ctx, e.buf, pos + (s.pongFrames before).length * s.cfg.packetSize⟩ := by
  rw [State.flushDeliveries_append, State.flushDeliveries_cons_user hr, State.pongFrames_flatten_length hp,
    ← s.flushDeliveries_length pos before, List.getElem?_append_right (Nat.le_refl _), Nat.sub_self]
  rfl

/-! ### The state a flush leaves -/

/-- `s` after the entries `es` were flushed, their PONGs all sent, and `rest` is still in the store. -/
def State.afterFlush (s : State) (es rest : List Entry) : State :=
  { s with
    rs := rest
    out := s.out.extend (s.pongFrames es).flatten
    delivered := s.delivered ++ s.flushDeliveries s.out.top es
    lastFrame := (s.pongFrames es).getLast?.getD s.lastFrame
    lastValid := s.lastValid || !(s.pongFrames es).isEmpty
    txAns := s.txAns.drop (s.pongFrames es).length }

/-- The transport accepts the next `n` appends (R31). -/
def State.readyFor (s : State) (n : Nat) : Prop := ∀ b ∈ s.txAns.take n, b = true

theorem State.readyFor_of_linkUp {s : State} (h : s.linkUp) (n : Nat) : s.readyFor n :=
  fun b hb => h b (List.mem_of_mem_take hb)

theorem State.readyFor_succ {s : State} {n : Nat} (h : s.readyFor (n + 1)) :
    s.txReady = true ∧ s.dropTxAnswer.readyFor n := by
  unfold State.readyFor State.txReady State.dropTxAnswer at *
  cases htx : s.txAns with
  | nil => simp
  | cons b l =>
    rw [htx, List.take_succ_cons] at h
    exact ⟨h b List.mem_cons_self, fun c hc => h c (List.mem_cons_of_mem b hc)⟩

@[simp] theorem State.afterFlush_nil (s : State) : s.afterFlush [] s.rs = s := by
  simp [State.afterFlush, State.pongFrames, State.flushDeliveries]

section
variable {s : State} {e : Entry}

/-! The state after one entry and then the others. -/

theorem State.afterFlush_cons_user {h : Handler} (hr : s.regRow (kind e.ty) = .user h) (rs es rest : List Entry) :
    ((s.deliver h e).setRs rs).afterFlush es rest = s.afterFlush (e :: es) rest := by
  have hframes : s.pongFrames (e :: es) = s.pongFrames es := State.pongFrames_cons_other (by simp [hr]) es
  have hmade := State.flushDeliveries_cons_user hr s.out.top es
  simp [State.afterFlush, hframes, hmade]

theorem State.afterFlush_cons_autoPong (hr : s.regRow (kind e.ty) = .autoPong) (rs es rest : List Entry) :
    (((s.dropTxAnswer.extendOut (pongFrame s.cfg e.ctx)).setLast (pongFrame s.cfg e.ctx)).setRs rs).afterFlush es rest =
      s.afterFlush (e :: es) rest := by
  have hframes := State.pongFrames_cons_autoPong hr es
  have hmade := State.flushDeliveries_cons_autoPong hr s.out.top es
  rw [← Memory.top_extend] at hmade
  simp [State.afterFlush, hframes, hmade, Memory.extend_append, List.getLast?_cons]

theorem State.afterFlush_cons_unregistered (hr : s.regRow (kind e.ty) = .unregistered) (rs es rest : List Entry) :
    (s.setRs rs).afterFlush es rest = s.afterFlush (e :: es) rest := by
  have hframes : s.pongFrames (e :: es) = s.pongFrames es := State.pongFrames_cons_other (by simp [hr]) es
  have hmade := State.flushDeliveries_cons_unregistered hr s.out.top es
  simp [State.afterFlush, hframes, hmade]

end

/-- A flush goes over the entries whose PONGs all go out, and on with the rest (R155). -/
theorem flushEntries_append {s : State} {es rest : List Entry} (hrs : s.rs = es ++ rest)
    (hready : s.readyFor (s.pongFrames es).length) :
    flushEntries (es ++ rest) s = flushEntries rest (s.afterFlush es rest) := by
  induction es generalizing s with
  | nil =>
    obtain rfl : s.rs = rest := hrs
    rw [State.afterFlush_nil, List.nil_append]
  | cons e es ih =>
    rw [List.cons_append]
    rcases flushEntries_cons_cases e (es ++ rest) s with ⟨h, hr, heq⟩ | ⟨hr, _, heq⟩ | ⟨hr, hdown, _⟩ | ⟨hr, heq⟩
    · rw [State.pongFrames_cons_other (by simp [hr])] at hready
      rw [heq, ← State.afterFlush_cons_user hr (es ++ rest)]
      exact ih rfl hready
    · rw [State.pongFrames_cons_autoPong hr] at hready
      rw [heq, ← State.afterFlush_cons_autoPong hr (es ++ rest)]
      exact ih rfl (State.readyFor_succ hready).2
    · rw [State.pongFrames_cons_autoPong hr] at hready
      exact absurd (State.readyFor_succ hready).1 (by simp [hdown])
    · rw [State.pongFrames_cons_other (by simp [hr])] at hready
      rw [heq, ← State.afterFlush_cons_unregistered hr (es ++ rest)]
      exact ih rfl hready

/-! ### The tick that only flushes -/

/-- An own-origin frame in `Idle` flushes the store and does nothing else (R109, R154). -/
theorem exec_ownOrigin_idle {s : State} (h : s.engine = .idle) (k : Kind) (f : Frame) :
    exec (.rxOwnOrigin k f) s = ((flushEntries s.rs s).andThen fun s' => s'.setStatus .ok).toOutcome := by
  show s.endTick.toOutcome = _
  rw [State.endTick_of_idle h]
  rfl

/-- On a working transport the whole store is flushed. -/
theorem exec_ownOrigin_flushes {s : State} (he : s.engine = .idle) (hlink : s.linkUp) (k : Kind) (f : Frame) :
    exec (.rxOwnOrigin k f) s = .next ((s.afterFlush s.rs []).setStatus .ok) := by
  have hflush := flushEntries_append (List.append_nil s.rs).symm (State.readyFor_of_linkUp hlink _)
  rw [List.append_nil] at hflush
  rw [exec_ownOrigin_idle he, hflush]
  rfl

/-- A PONG that fails stops the flush with its entry in place (R180(c)). -/
theorem exec_ownOrigin_stops {s : State} {pre post : List Entry} {e : Entry} {tx : List Bool} (he : s.engine = .idle)
    (hrs : s.rs = pre ++ e :: post) (hr : s.regRow (kind e.ty) = .autoPong)
    (htx : s.txAns = List.replicate (s.pongFrames pre).length true ++ false :: tx) (k : Kind) (f : Frame) :
    exec (.rxOwnOrigin k f) s =
      .next (s.afterFlush pre (e :: post)).dropTxAnswer.raiseTransportFailure := by
  have hready : s.readyFor (s.pongFrames pre).length := by
    intro b hb
    rw [htx, List.take_left' List.length_replicate] at hb
    exact List.eq_of_mem_replicate hb
  have hdown : (s.afterFlush pre (e :: post)).txReady = false := by
    simp [State.txReady, State.afterFlush, htx]
  have hfail : flushEntries (e :: post) (s.afterFlush pre (e :: post)) =
      .failed (s.afterFlush pre (e :: post)).dropTxAnswer.raiseTransportFailure := by
    have hr' : (s.afterFlush pre (e :: post)).regRow (kind e.ty) = .autoPong := hr
    rw [flushEntries, hr', State.send_of_not_ready hdown]
  rw [exec_ownOrigin_idle he, hrs, flushEntries_append hrs hready, hfail]
  rfl

/-- What is delivered after the flush of the entries `es`, in the words of the statements. -/
theorem State.afterFlush_delivered (s : State) (es rest : List Entry) :
    (s.afterFlush es rest).delivered.map Delivery.call = s.delivered.map Delivery.call ++ s.handedOver es ∧
      (s.afterFlush es rest).delivered.take s.delivered.length = s.delivered ∧
      (s.cfg.legal → ∀ before e after h, es = before ++ e :: after → s.regRow (kind e.ty) = .user h →
        (s.afterFlush es rest).delivered[s.delivered.length + (s.handedOver before).length]? =
          some ⟨h, e.ty, e.ctx, e.buf, s.out.top + (s.pongFrames before).length * s.cfg.packetSize⟩) := by
  have hdel : (s.afterFlush es rest).delivered = s.delivered ++ s.flushDeliveries s.out.top es := rfl
  rw [hdel]
  refine ⟨by rw [List.map_append, State.flushDeliveries_call], List.take_left, ?_⟩
  rintro hp before e after h rfl hr
  rw [List.getElem?_append_right (Nat.le_add_right _ _), Nat.add_sub_cancel_left]
  exact State.flushDeliveries_getElem hp _ before after hr

/-- Settles O49: the state after the flush of the whole store. -/
theorem flushDeliversInOrder : Obligations.FlushDeliversInOrder := by
  intro k f s he hlink
  obtain ⟨hcalls, hkept, hplaced⟩ := s.afterFlush_delivered s.rs []
  exact ⟨_, exec_ownOrigin_flushes he hlink k f, rfl, rfl, rfl, hcalls, hkept, hplaced, rfl, rfl, he, rfl, rfl, rfl,
    rfl, rfl⟩

/-- Settles O50: the state after the flush of the entries before the failing one, and the failure in it. -/
theorem flushStopsAtFailedPong : Obligations.FlushStopsAtFailedPong := by
  intro k f s pre post e tx he hrs hr htx
  obtain ⟨hcalls, hkept, hplaced⟩ := s.afterFlush_delivered pre (e :: post)
  have hanswers : (s.afterFlush pre (e :: post)).dropTxAnswer.txAns = tx := by
    simp [State.afterFlush, State.dropTxAnswer, htx]
  exact ⟨_, exec_ownOrigin_stops he hrs hr htx k f, rfl, rfl, rfl, hanswers, rfl, hcalls, hkept, hplaced, rfl, rfl, he,
    rfl, rfl, rfl, rfl⟩

end Sys2Proof.Machine
end

section
/-! The codec on whole frames: what decoding reads of a frame that was encoded (R76, R78, R80), and of a chunk in which a
decoded frame stands (R50). -/

namespace Sys2Proof

theorem bodyMax_pos {p : Params} (hp : p.legal) : 1 ≤ p.bodyMax := by
  have hmin := hp.1
  simp only [Params.bodyMax]
  omega

theorem Frame.fits_iff {p : Params} {f : Frame} :
    f.fits p = true ↔ f.synthetic = false ∧ f.body.length ≤ p.bodyMax := by
  simp [Frame.fits]

/-- A chunk with its header written out and a length byte in range is a real frame (R78). -/
theorem decodeFrame_header (p : Params) {n : Byte} {rest : Bytes} (hmin : 8 ≤ n.toNat)
    (hmax : n.toNat ≤ rest.length + 8) (t s c k r5 r6 r7 : Byte) :
    decodeFrame p (t :: s :: c :: n :: k :: r5 :: r6 :: r7 :: rest) =
      (t, ⟨s, c, k, r5, r6, r7, rest.take (n.toNat - 8), false⟩) := by
  have hreal : ¬(n.toNat < 8 ∨ rest.length + 8 < n.toNat) := by omega
  simp [decodeFrame, hreal]

/-- Everything `decode` can read: the synthetic NOOP, or a real frame whose body is no longer than the chunk leaves room
for (R78, R79). -/
theorem decodeFrame_cases (p : Params) (raw : Bytes) :
    decodeFrame p raw = (typeByte 0 p.rxParity, Frame.syntheticNoop) ∨
      ∃ t f, decodeFrame p raw = (t, f) ∧ f.synthetic = false ∧ f.body.length ≤ raw.length - 8 := by
  unfold decodeFrame
  split
  · split
    · exact .inl rfl
    · refine .inr ⟨_, _, rfl, rfl, ?_⟩
      simp only [List.length_take, List.length_cons]
      omega
  · exact .inl rfl

/-! ### Encoded frames -/

/-- An encoded frame with its header written out (R76). -/
theorem encodeFrame_eq (p : Params) (t s c : Byte) (body : Bytes) :
    encodeFrame p t s c body =
      t :: s :: c :: BitVec.ofNat 8 (8 + (body.take p.bodyMax).length) ::
        checksum (encodeFrame p t s c body) (8 + (body.take p.bodyMax).length) :: 0 :: 0 :: 0 ::
          (body.take p.bodyMax ++ zeros (p.packetSize - (8 + (body.take p.bodyMax).length))) := by
  obtain ⟨_, _, hcks⟩ := Machine.encodeFrame_header p t s c body
  rw [← hcks]
  rfl

/-- The fields of an encoded frame as the other end reads them. -/
def Frame.encoded (p : Params) (t s c : Byte) (body : Bytes) : Frame :=
  ⟨s, c, checksum (encodeFrame p t s c body) (8 + (body.take p.bodyMax).length), 0, 0, 0, body.take p.bodyMax, false⟩

/-- Whatever stands at the checksum's place of an encoded frame is read as the checksum byte, the rest as encoded. -/
theorem decodeFrame_setChecksum {p : Params} (hp : p.legal) (t s c : Byte) (body : Bytes) (k : Byte) :
    decodeFrame p ((encodeFrame p t s c body).set 4 k) = (t, { Frame.encoded p t s c body with cks := k }) := by
  obtain ⟨hnat, hle⟩ := Machine.lengthByte_toNat hp body
  rw [encodeFrame_eq]
  simp only [List.set_cons_succ, List.set_cons_zero]
  rw [decodeFrame_header p (by omega) (by rw [List.length_append, zeros_length]; omega), hnat,
    Nat.add_sub_cancel_left, List.take_left]
  rfl

/-- Decoding gives back what was encoded (R81). -/
theorem decodeFrame_encodeFrame {p : Params} (hp : p.legal) (t s c : Byte) (body : Bytes) :
    decodeFrame p (encodeFrame p t s c body) = (t, Frame.encoded p t s c body) := by
  have hset : (encodeFrame p t s c body).set 4 (Frame.encoded p t s c body).cks = encodeFrame p t s c body := by
    conv_rhs => rw [encodeFrame_eq]
    rfl
  rw [← hset, decodeFrame_setChecksum hp]

/-- A frame with the fields encoded is valid with the checksum encoded, and with no other (R80). -/
theorem frameValid_encoded (p : Params) (t s c : Byte) (body : Bytes) (k : Byte) :
    Machine.frameValid t { Frame.encoded p t s c body with cks := k } = ((Frame.encoded p t s c body).cks == k) := by
  have hcks : (Frame.encoded p t s c body).cks =
      checksum (frameBytes t { Frame.encoded p t s c body with cks := k }) (8 + (body.take p.bodyMax).length) := by
    rw [Frame.encoded, encodeFrame_eq, checksum_header _ _ _ _ _ _ _ _ _ _ (Nat.le_add_right 8 _),
      Nat.add_sub_cancel_left, List.take_left]
    simp only [frameBytes, List.cons_append, List.nil_append]
    rw [checksum_header _ _ _ _ _ _ _ _ _ _ (Nat.le_add_right 8 _), Nat.add_sub_cancel_left, List.take_length]
    rfl
  rw [hcks]
  rfl

/-! ### Chunks -/

/-- A frame that fits a chunk is what the chunk decodes to (R50, R78). -/
theorem decodeFrame_chunkOf {p : Params} (hp : p.legal) (t : Byte) {f : Frame} (hf : f.fits p = true) :
    decodeFrame p (chunkOf p t f) = (t, f) := by
  obtain ⟨hmin, hmax, _⟩ := hp
  obtain ⟨hreal, hbody⟩ := Frame.fits_iff.mp hf
  rw [Params.bodyMax] at hbody
  have hnat : (BitVec.ofNat 8 f.length).toNat = f.body.length + 8 := by
    rw [BitVec.toNat_ofNat, Frame.length]
    omega
  simp only [chunkOf, hreal, frameBytes, List.cons_append, List.nil_append, Bool.false_eq_true, if_false]
  rw [decodeFrame_header p (by omega) (by rw [List.length_append]; omega), hnat, Nat.add_sub_cancel, List.take_left,
    ← hreal]

end Sys2Proof
end

section
/-! The classification of inbound type bytes (R52 to R54, R72). -/

namespace Sys2Proof

/-- A type byte of the peer classifies by the row of its kind. -/
theorem classify_of_row {p : Params} {t : Byte} {r : KindRow} (ho : origin t ≠ p.txParity)
    (hr : rowOfKind (kind t) = r) (f : Frame) : classify p t f = rxInstr r f := by
  rw [classify, if_neg ho, hr]

theorem origin_of_odd : ∀ t : Byte, t &&& 0x01 = 0x01 → origin t = 1 := by decide

/-! The four patterns with free bits: an even byte of the pattern has the row of the pattern, with those bits. -/

theorem rowOfKind_0001xxx0 : ∀ t : Byte, t &&& 0xF1 = 0x10 →
    origin t = 0 ∧ rowOfKind (kind t) = .data8 (t.extractLsb' 1 3) := by decide

theorem rowOfKind_001xxxx0 : ∀ t : Byte, t &&& 0xE1 = 0x20 →
    origin t = 0 ∧ rowOfKind (kind t) = .data16 (t.extractLsb' 1 4) := by decide

theorem rowOfKind_01xxxxx0 : ∀ t : Byte, t &&& 0xC1 = 0x40 →
    origin t = 0 ∧ rowOfKind (kind t) = .data32 (t.extractLsb' 1 5) := by decide

theorem rowOfKind_1xxxxxx0 : ∀ t : Byte, t &&& 0x81 = 0x80 →
    origin t = 0 ∧ rowOfKind (kind t) = .data64 (t.extractLsb' 1 6) := by decide

/-- Every byte is of own origin, or one of the eight single bytes, or of one of the four patterns (R72). -/
theorem typeByte_covered : ∀ t : Byte,
    t &&& 0x01 = 0x01 ∨ t ∈ ([0x00, 0x02, 0x04, 0x06, 0x08, 0x0A, 0x0C, 0x0E] : Bytes) ∨ t &&& 0xF1 = 0x10 ∨
      t &&& 0xE1 = 0x20 ∨ t &&& 0xC1 = 0x40 ∨ t &&& 0x81 = 0x80 := by decide

/-- Bit 0 changes the origin and not the kind (R52). -/
theorem kind_origin_flipBit0 : ∀ t : Byte,
    kind (t ^^^ 0x01) = kind t ∧ (origin (t ^^^ 0x01) = 0 ↔ origin t = 1) := by decide

/-- With the parities exchanged, bit 0 of the type byte has the other role. -/
theorem classify_flipBit0 {p q : Params} (hp : p.txParity = 1) (hq : q.txParity = 0) (t : Byte) (f : Frame) :
    classify q (t ^^^ 0x01) f = classify p t f := by
  obtain ⟨hkind, horigin⟩ := kind_origin_flipBit0 t
  simp only [classify, hp, hq, hkind, horigin]

/-- Settles O8: the bytes of each pattern are even and their kind has the pattern's row; the coverage and the exchange are
facts about bit 0 and the patterns alone. -/
theorem typeByteClassification : Obligations.TypeByteClassification := by
  intro p q t f hp hq
  have peer {r : KindRow} (h : origin t = 0 ∧ rowOfKind (kind t) = r) : classify p t f = rxInstr r f :=
    classify_of_row (by rw [h.1, hp]; decide) h.2 f
  have byte (r : KindRow) (u : Byte) (hu : origin u = 0 ∧ rowOfKind (kind u) = r) (h : t = u) :
      classify p t f = rxInstr r f := peer (h ▸ hu)
  exact ⟨fun h => classify_own ((origin_of_odd t h).trans hp.symm) f, byte .noop 0x00 (by decide),
    byte .ping 0x02 (by decide), byte .pong 0x04 (by decide), byte .ack 0x06 (by decide), byte .reject 0x08 (by decide),
    byte .start 0x0A (by decide), byte .fin 0x0C (by decide), byte .data7 0x0E (by decide),
    fun h => peer (rowOfKind_0001xxx0 t h), fun h => peer (rowOfKind_001xxxx0 t h),
    fun h => peer (rowOfKind_01xxxxx0 t h), fun h => peer (rowOfKind_1xxxxxx0 t h), typeByte_covered t,
    classify_flipBit0 hp hq t f⟩

end Sys2Proof
end

section
/-! The decoder against the encoder, one presented word after the other: inbound chunks (R50, R72), transmitted frames
(R50, R53, R59 to R66), commands (R68). -/

namespace Sys2Proof

/-! ### Inbound chunks -/

/-- A frame of peer origin that fits a chunk is read back under its row. -/
theorem decode_peerChunk {p : Params} (hp : p.legal) (r : KindRow) {f : Frame} (hf : f.fits p = true) :
    decode p (peerChunk p r f) = .ok (rxInstr r f) := by
  simp only [decode, peerChunk, decodeInbound, decodeFrame_chunkOf hp _ hf, classify_peer, rowOfKind_kindOf]

theorem decode_ownChunk {p : Params} (hp : p.legal) (k : Kind) {f : Frame} (hf : f.fits p = true) :
    decode p (.inbound (chunkOf p (typeByte k p.txParity) f)) = .ok (.rxOwnOrigin k f) := by
  simp only [decode, decodeInbound, decodeFrame_chunkOf hp _ hf, classify_own (origin_typeByte _ _), kind_typeByte]

/-- The synthetic NOOP stands in an empty chunk (R79). -/
theorem decode_syntheticNoop (p : Params) :
    decode p (peerChunk p .noop Frame.syntheticNoop) = .ok (.rxNoop Frame.syntheticNoop) :=
  congrArg Except.ok (classify_peer p 0 Frame.syntheticNoop)

theorem rxInstr_wellFormed {p : Params} {f : Frame} (hf : f.fits p = true) (r : KindRow) :
    (rxInstr r f).wellFormed p = true := by
  cases r <;> simp only [rxInstr, Instr.wellFormed, hf, Bool.true_or]

theorem classify_wellFormed {p : Params} {f : Frame} (hf : f.fits p = true) (t : Byte) :
    (classify p t f).wellFormed p = true := by
  unfold classify
  split
  · exact hf
  · exact rxInstr_wellFormed hf _

/-- Every chunk a read can return holds a well-formed instruction: a real frame fits the chunk it was read from. -/
theorem decodeInbound_wellFormed {p : Params} {raw : Bytes} (h : raw.length ≤ p.packetSize) :
    (decodeInbound p raw).wellFormed p = true := by
  unfold decodeInbound
  rcases decodeFrame_cases p raw with hd | ⟨t, f, hd, hreal, hbody⟩ <;> rw [hd]
  · rw [classify_peer]
    rfl
  · exact classify_wellFormed (Frame.fits_iff.mpr ⟨hreal, hbody.trans (Nat.sub_le_sub_right h 8)⟩) t

/-! ### START's body -/

theorem startFits_iff {p : Params} {dt : Byte} {rem : BitVec 16} :
    startFits p dt rem = true ↔ 7 ≤ (kind dt).toNat ∧ origin dt = p.txParity ∧
      (3 ≤ p.bodyMax ∨ (p.bodyMax = 2 ∧ rem.extractLsb' 0 8 = 0) ∨ rem = 0) := by
  simp [startFits, kind, origin, or_assoc, and_assoc]

/-- START's body as far as it fits a frame: both length bytes, the more significant one, or none (R64, R77). -/
theorem take_startBody (dt : Byte) (rem : BitVec 16) (n : Nat) :
    (n = 0 ∧ (startBody dt rem).take (n + 1) = [dt]) ∨
      (n = 1 ∧ (startBody dt rem).take (n + 1) = [dt, rem.extractLsb' 8 8]) ∨
      (2 ≤ n ∧ (startBody dt rem).take (n + 1) = [dt, rem.extractLsb' 8 8, rem.extractLsb' 0 8]) := by
  match n with
  | 0 => exact .inl ⟨rfl, rfl⟩
  | 1 => exact .inr (.inl ⟨rfl, rfl⟩)
  | n + 2 => exact .inr (.inr ⟨by omega, by simp [startBody]⟩)

/-- The length bytes a START lacks are read as zero (R77). -/
theorem decodeStart_cons {p : Params} {dt : Byte} {rest : Bytes} (hlen : rest.length + 1 = min 3 p.bodyMax)
    (hkind : 7 ≤ (kind dt).toNat) (horigin : origin dt = p.txParity) (s c : Byte) :
    decodeStart p s c (dt :: rest) = .ok (.txStart s c dt (rest.getD 0 0 ++ rest.getD 1 0)) :=
  if_pos ⟨hlen, hkind, horigin⟩

/-- A START whose lost bytes are zero is read back. -/
theorem decodeStart_startBody {p : Params} (hp : p.legal) {dt : Byte} {rem : BitVec 16}
    (hfits : startFits p dt rem = true) (s c : Byte) :
    decodeStart p s c ((startBody dt rem).take p.bodyMax) = .ok (.txStart s c dt rem) := by
  obtain ⟨hkind, horigin, hlost⟩ := startFits_iff.mp hfits
  obtain ⟨n, hn⟩ : ∃ n, p.bodyMax = n + 1 := ⟨p.bodyMax - 1, by have := bodyMax_pos hp; omega⟩
  have hrem := remBytes_append rem
  rw [hn] at hlost ⊢
  rcases take_startBody dt rem n with ⟨rfl, hbody⟩ | ⟨rfl, hbody⟩ | ⟨hn2, hbody⟩
  · obtain rfl : rem = 0 := by simpa using hlost
    rw [hbody, decodeStart_cons (by simp [hn]) hkind horigin]
    rfl
  · have hlow : rem.extractLsb' 0 8 = 0 := by
      rcases hlost with h3 | ⟨_, hlow⟩ | rfl
      · omega
      · exact hlow
      · rfl
    rw [hlow] at hrem
    rw [hbody, decodeStart_cons (by simp [hn]) hkind horigin]
    exact congrArg (fun r => Except.ok (Instr.txStart s c dt r)) hrem
  · rw [hbody, decodeStart_cons (by simp [hn]; omega) hkind horigin]
    exact congrArg (fun r => Except.ok (Instr.txStart s c dt r)) hrem

/-- A START that is read announces what its frame can carry. -/
theorem decodeStart_wellFormed {p : Params} {s c : Byte} {body : Bytes} {i : Instr}
    (h : decodeStart p s c body = .ok i) : i.wellFormed p = true := by
  cases body with
  | nil => cases h
  | cons dt rest =>
    rw [decodeStart] at h
    split_ifs at h with hform
    obtain ⟨hlen, hkind, horigin⟩ := hform
    cases h
    refine startFits_iff.mpr ⟨hkind, horigin, ?_⟩
    match rest with
    | [] => exact .inr (.inr rfl)
    | [hi] =>
      have hlow : ∀ b : Byte, (b ++ (0 : Byte)).extractLsb' 0 8 = 0 := by decide
      exact .inr (.inl ⟨by simp at hlen; omega, hlow hi⟩)
    | _ :: _ :: _ =>
      simp only [List.length_cons] at hlen
      exact .inl (by omega)

/-! ### Transmitted frames -/

/-- A frame with a correct header and zero padding is read by the row of its kind (R50, R53, R56, R57). -/
theorem decodeOutbound_header {p : Params} {t n k : Byte} {rest : Bytes} {s c : Byte}
    (hsize : rest.length + 8 = p.packetSize) (hmin : 8 ≤ n.toNat) (hmax : n.toNat ≤ p.packetSize)
    (hcks : checksum (t :: s :: c :: n :: k :: 0 :: 0 :: 0 :: rest) n.toNat = k)
    (hpad : rest.drop (n.toNat - 8) = zeros (p.packetSize - n.toNat)) (ht : origin t = p.txParity) :
    decodeOutbound p (t :: s :: c :: n :: k :: 0 :: 0 :: 0 :: rest) =
      decodeSent p (rowOfKind (kind t)) s c (rest.take (n.toNat - 8)) := by
  have hlen : ¬(n.toNat < 8 ∨ p.packetSize < n.toNat) := by omega
  rw [decodeOutbound, List.length_cons, if_neg (by simpa using hsize), if_neg hlen, if_neg (not_not.mpr hcks),
    if_neg (by simp), if_neg (not_not.mpr hpad), if_neg (not_not.mpr ht)]

/-- What encode makes of a row's fields is read by the row, the body cut to `BODY_MAX` (R76, R77). -/
theorem decodeOutbound_sentFrame {p : Params} (hp : p.legal) (r : KindRow) (s c : Byte) (body : Bytes) :
    decodeOutbound p (sentFrame p r s c body) = decodeSent p r s c (body.take p.bodyMax) := by
  obtain ⟨hnat, hle⟩ := Machine.lengthByte_toNat hp body
  have heq := encodeFrame_eq p (typeByte (kindOf r) p.txParity) s c body
  rw [sentFrame, heq, decodeOutbound_header, hnat, Nat.add_sub_cancel_left, List.take_left, kind_typeByte,
    rowOfKind_kindOf]
  · rw [List.length_append, zeros_length]
    omega
  · omega
  · omega
  · rw [hnat, ← heq]
  · rw [hnat, Nat.add_sub_cancel_left, List.drop_left]
  · exact origin_typeByte _ _

theorem decode_sentFrame {p : Params} (hp : p.legal) (r : KindRow) (s c : Byte) {body : Bytes}
    (hbody : body.length ≤ p.bodyMax) : decode p (.outbound (sentFrame p r s c body)) = decodeSent p r s c body := by
  rw [decode, decodeOutbound_sentFrame hp, List.take_of_length_le hbody]

/-- A frame that is read as a transmitted one is read by a row, from a body that fits. -/
theorem decodeOutbound_eq_ok {p : Params} {f : Bytes} {i : Instr} (h : decodeOutbound p f = .ok i) :
    ∃ r s c body, body.length ≤ p.bodyMax ∧ decodeSent p r s c body = .ok i := by
  unfold decodeOutbound at h
  split at h
  · next t s c n k r5 r6 r7 rest =>
    split_ifs at h with hsize
    refine ⟨_, s, c, _, ?_, h⟩
    simp only [ne_eq, not_not, List.length_cons] at hsize
    simp only [List.length_take, Params.bodyMax]
    omega
  · cases h

theorem fragmentFits_iff {p : Params} {body : Bytes} :
    fragmentFits p body = true ↔ body ≠ [] ∧ body.length ≤ p.bodyMax := by
  simp [fragmentFits, Nat.one_le_iff_ne_zero]

theorem decodeSent_wellFormed {p : Params} {r : KindRow} {s c : Byte} {body : Bytes} {i : Instr}
    (hbody : body.length ≤ p.bodyMax) (h : decodeSent p r s c body = .ok i) : i.wellFormed p = true := by
  cases r with
  | start => exact decodeStart_wellFormed h
  | noop | ping | pong | ack | reject | fin =>
    simp only [decodeSent] at h
    split_ifs at h
    cases h
    rfl
  | data7 | data8 | data16 | data32 | data64 =>
    simp only [decodeSent] at h
    split_ifs at h with hne
    cases h
    exact fragmentFits_iff.mpr ⟨hne, hbody⟩

/-- A fragment is read back under its data row. -/
theorem decode_fragment {p : Params} (hp : p.legal) {r : KindRow} (hr : Machine.isDataRow r = true) (s c : Byte)
    {body : Bytes} (hbody : fragmentFits p body = true) :
    decode p (.outbound (sentFrame p r s c body)) = .ok (Machine.txDataInstr r s c body) := by
  obtain ⟨hne, hlen⟩ := fragmentFits_iff.mp hbody
  rw [decode_sentFrame hp r s c hlen]
  cases r with
  | noop | ping | pong | ack | reject | start | fin => cases hr
  | data7 | data8 | data16 | data32 | data64 => exact if_pos hne

/-! ### Commands -/

theorem decodeCommand_wellFormed {p : Params} {w : CmdWord} (hw : w.code = 2 → w.handler.ofType p = true) :
    (decodeCommand w).wellFormed p = true := by
  unfold decodeCommand
  split_ifs with _ _ hcode
  · rfl
  · rfl
  · exact hw hcode
  · rfl

/-! ### All words -/

/-- Settles O11: one lemma per code space. -/
theorem decodedIsWellFormed : Obligations.DecodedIsWellFormed := by
  intro p _
  refine ⟨fun raw h => decodeInbound_wellFormed h, fun f i h => ?_, fun w hw => decodeCommand_wellFormed hw⟩
  obtain ⟨r, s, c, body, hbody, hsent⟩ := decodeOutbound_eq_ok h
  exact decodeSent_wellFormed hbody hsent

/-- Settles O10: a peer's frame is read back under its row, a transmitted frame from its row's fields, a command from its
code. -/
theorem decodeInvertsEncode : Obligations.DecodeInvertsEncode := by
  intro p i hp hw
  have hempty (r : KindRow) (s c : Byte) := decode_sentFrame hp r s c (body := []) (Nat.zero_le p.bodyMax)
  cases i with
  | rxOwnOrigin k f => exact decode_ownChunk hp k hw
  | rxNoop f =>
    rcases (by simpa [Instr.wellFormed] using hw : f.fits p = true ∨ f = Frame.syntheticNoop) with hf | rfl
    · exact decode_peerChunk hp .noop hf
    · exact decode_syntheticNoop p
  | rxPing f => exact decode_peerChunk hp .ping hw
  | rxPong f => exact decode_peerChunk hp .pong hw
  | rxAck f => exact decode_peerChunk hp .ack hw
  | rxReject f => exact decode_peerChunk hp .reject hw
  | rxStart f => exact decode_peerChunk hp .start hw
  | rxEnd f => exact decode_peerChunk hp .fin hw
  | rxData0E f => exact decode_peerChunk hp .data7 hw
  | rxData10 x f => exact decode_peerChunk hp (.data8 x) hw
  | rxData20 x f => exact decode_peerChunk hp (.data16 x) hw
  | rxData40 x f => exact decode_peerChunk hp (.data32 x) hw
  | rxData80 x f => exact decode_peerChunk hp (.data64 x) hw
  | txNoop => exact hempty .noop 0 0
  | txPing => exact hempty .ping 0 0
  | txPong ctx => exact hempty .pong 0 ctx
  | txAck seq ctx => exact hempty .ack seq ctx
  | txReject seq ctx ty => exact decode_sentFrame hp .reject seq ctx (body := [ty]) (bodyMax_pos hp)
  | txStart seq ctx dt rem =>
    exact (decodeOutbound_sentFrame hp .start seq ctx _).trans (decodeStart_startBody hp hw seq ctx)
  | txEnd seq ctx => exact hempty .fin seq ctx
  | txData0F seq ctx body => exact decode_fragment hp (r := .data7) rfl seq ctx hw
  | txData11 x seq ctx body => exact decode_fragment hp (r := .data8 x) rfl seq ctx hw
  | txData21 x seq ctx body => exact decode_fragment hp (r := .data16 x) rfl seq ctx hw
  | txData41 x seq ctx body => exact decode_fragment hp (r := .data32 x) rfl seq ctx hw
  | txData81 x seq ctx body => exact decode_fragment hp (r := .data64 x) rfl seq ctx hw
  | tick | submit | register | ping => rfl

/-- Settles O12: the five words, decoded. -/
theorem writtenWordsDecode : Obligations.WrittenWordsDecode := ⟨rfl, rfl, rfl, rfl, rfl⟩

end Sys2Proof
end

section
/-! The end of a tick that has nothing to flush, and the TX rows as `Send` of the frame they encode to (R107, R109, R154). -/

namespace Sys2Proof.Machine

/-- A tick that has nothing to flush ends with `OK` and changes nothing more (R105, R154). -/
theorem finishTick_ok_of_quiet {s : State} (h : s.quiet) : finishTick (.ok s) = .next { s with status := some .ok } := by
  rcases h with hbusy | hempty
  · rw [finishTick_ok, State.endTick_of_busy hbusy]
    rfl
  · rw [finishTick_ok, State.endTick_of_empty hempty]
    rfl

theorem tickLeaves_finishTick (s : State) : TickLeaves (finishTick (.ok s)) s := ⟨rfl, finishTick_ok_of_quiet⟩

/-- Settles O46: the row is the end of the tick and nothing else. -/
theorem ownOriginIsIgnored : Obligations.OwnOriginIsIgnored := fun _ _ s => tickLeaves_finishTick s

/-- A frame the transport takes (R107). -/
theorem State.send_eq_afterSend {s : State} (h : s.txReady = true) (f : Bytes) : s.send f = .ok (s.afterSend f) :=
  s.send_of_ready h f

/-- An instruction that encodes to a frame of this side is `Send` of that frame. -/
theorem exec_of_encode_outbound {i : Instr} {s : State} {f : Bytes} (h : encode s.cfg i = .outbound f) :
    exec i s = (s.send f).toOutcome := by
  cases i with
  | txNoop | txPing | txPong | txAck | txReject | txStart | txEnd | txData0F | txData11 | txData21 | txData41
  | txData81 =>
    cases h
    rfl
  | _ => cases h

theorem exec_of_encode_outbound_ready {i : Instr} {s : State} {f : Bytes} (h : encode s.cfg i = .outbound f)
    (hready : s.txReady = true) : exec i s = .next (s.afterSend f) := by
  rw [exec_of_encode_outbound h, State.send_eq_afterSend hready, Sent.toOutcome_ok]

theorem encode_txDataInstr (p : Params) {r : KindRow} (hr : isDataRow r = true) (seq ctx : Byte) (body : Bytes) :
    encode p (txDataInstr r seq ctx body) = .outbound (sentFrame p r seq ctx body) := by
  cases r with
  | noop | ping | pong | ack | reject | start | fin => cases hr
  | data7 | data8 | data16 | data32 | data64 => rfl

/-- Settles O57: the instruction encodes to the frame, and so is `Send` of it. -/
theorem dataFramesAreSent : Obligations.DataFramesAreSent := fun _ s seq ctx body hr hready =>
  exec_of_encode_outbound_ready (encode_txDataInstr s.cfg hr seq ctx body) hready

end Sys2Proof.Machine
end

section
/-! Each TX row inside a host command (R3): from the state made ready for the row, the step sends the row's frame and
nothing else. -/

namespace Sys2Proof.Machine

/-! ### The step with one frame of the peer in front -/

/-- The state in which a TICK in front of the pending requests runs, `raw` being the tail of `IN`. -/
abbrev State.reading (s : State) (raw : Bytes) : State := s.accept s.pending raw .latest []

/-- A step that takes a TICK during which a frame of a row of the peer is the tail of `IN` runs that row, or rejects the
frame if its checksum is wrong (R105, R106). -/
theorem step_withTick_decoded {s : State} {raw : Bytes} (hlen : raw.length = s.cfg.packetSize) {r : KindRow} {f : Frame}
    (hdec : decodeFrame s.cfg raw = (peerType s.cfg r, f)) :
    step (s.withTick raw) = finishTick
      (if frameValid (peerType s.cfg r) f then peerRow r f (s.reading raw)
        else (s.reading raw).badChecksum (peerType s.cfg r) f) := by
  have hrow : decodeInbound s.cfg raw = rxInstr r f := by
    rw [decodeInbound, hdec, peerType, classify_peer, rowOfKind_kindOf]
  rw [step_withTick]
  refine (execTick_of_read (s.rxRead_accept_latest s.pending [] hlen)).trans ?_
  rw [State.accept_cfg, hrow, exec_rxInstr, tickOnRow_eq]
  rfl

/-- A frame of the peer under a row as it is received. -/
abbrev peerFields (p : Params) (r : KindRow) (seq ctx : Byte) : Frame := Frame.encoded p (peerType p r) seq ctx []

/-- A correct frame of the peer fires its row. -/
theorem step_withTick_peerFrame {s : State} (hp : s.cfg.legal) (r : KindRow) (seq ctx : Byte) :
    step (s.withTick (peerFrame s.cfg r seq ctx)) =
      finishTick (peerRow r (peerFields s.cfg r seq ctx) (s.reading (peerFrame s.cfg r seq ctx))) := by
  have hvalid : frameValid (peerType s.cfg r) (peerFields s.cfg r seq ctx) = true :=
    (frameValid_encoded s.cfg _ seq ctx [] _).trans (beq_self_eq_true _)
  rw [step_withTick_decoded (peerFrame_length s.cfg hp r seq ctx) (decodeFrame_encodeFrame hp _ seq ctx []),
    if_pos hvalid]

/-- A type byte of peer origin is the one of its row. -/
theorem peerType_rowOfKind {p : Params} {t : Byte} (h : origin t = p.rxParity) : peerType p (rowOfKind (kind t)) = t := by
  rw [peerType, kindOf_rowOfKind, ← h, typeByte_kind_origin]

theorem xor_one_ne (b : Byte) : b ≠ b ^^^ 1 := by
  revert b; decide

/-- A spoilt frame is read as the frame it was, but for the checksum byte. -/
theorem decodeFrame_spoilt {p : Params} (hp : p.legal) (t s c : Byte) (body : Bytes) :
    decodeFrame p (spoilt (encodeFrame p t s c body)) =
      (t, { Frame.encoded p t s c body with cks := (Frame.encoded p t s c body).cks ^^^ 1 }) := by
  have hcks : (encodeFrame p t s c body).getD 4 0 = (Frame.encoded p t s c body).cks := by
    rw [encodeFrame_eq]
    rfl
  rw [spoilt, hcks, decodeFrame_setChecksum hp]

/-- A frame of the peer with a wrong checksum is answered with REJECT (R123). -/
theorem step_withTick_spoilt {s : State} (hp : s.cfg.legal) {ty : Byte} (hty : origin ty = s.cfg.rxParity)
    (seq ctx : Byte) :
    step (s.withTick (spoilt (encodeFrame s.cfg ty seq ctx []))) =
      finishTick ((s.reading (spoilt (encodeFrame s.cfg ty seq ctx []))).send
        (sentFrame s.cfg .reject seq ctx [ty])) := by
  have hrow := peerType_rowOfKind hty
  have hdec := decodeFrame_spoilt hp ty seq ctx []
  have hinvalid := (frameValid_encoded s.cfg ty seq ctx [] ((Frame.encoded s.cfg ty seq ctx []).cks ^^^ 1)).trans
    (beq_false_of_ne (xor_one_ne _))
  have hlen := (spoilt_length _).trans (encodeFrame_length s.cfg hp ty seq ctx [])
  rw [step_withTick_decoded hlen (r := rowOfKind (kind ty)) (by rw [hrow]; exact hdec), hrow,
    if_neg (Bool.eq_false_iff.mp hinvalid)]
  rfl

/-! ### The frame goes out -/

/-- The step from `y` sends the frame and nothing else, and answers `OK`; `s` is the state before `y` was made ready. -/
def SentByStep (s y : State) (f : Bytes) : Prop :=
  ∃ t, step y = .next t ∧ t.out = s.out.extend f ∧ t.lastFrame = f ∧ t.lastValid = true ∧ t.status = some .ok

theorem Sent.andThen_id (r : Sent) : r.andThen id = r := by cases r <;> rfl

section
variable {s x y : State} {f : Bytes} {k : State → State}

/-- A tick whose row is a `Send` followed by writes that leave `OUT` and `LAST` alone, with nothing to flush after it. -/
theorem sentByStep_of_send (hstep : step y = finishTick ((x.send f).andThen k)) (hready : x.txReady = true)
    (hquiet : (k (x.afterSend f)).quiet) (hout : (k (x.afterSend f)).out = s.out.extend f)
    (hlast : (k (x.afterSend f)).lastFrame = f) (hvalid : (k (x.afterSend f)).lastValid = true) :
    SentByStep s y f := by
  rw [State.send_eq_afterSend hready, Sent.andThen_ok, finishTick_ok_of_quiet hquiet] at hstep
  exact ⟨_, hstep, hout, hlast, hvalid, rfl⟩

/-- The same, the row being that of a correct frame of the peer. -/
theorem sentByStep_of_row (hp : y.cfg.legal) {r : KindRow} {seq ctx : Byte}
    (hrow : peerRow r (peerFields y.cfg r seq ctx) (y.reading (peerFrame y.cfg r seq ctx)) =
      ((y.reading (peerFrame y.cfg r seq ctx)).send f).andThen k)
    (hquiet : (k ((y.reading (peerFrame y.cfg r seq ctx)).afterSend f)).quiet)
    (hout : (k ((y.reading (peerFrame y.cfg r seq ctx)).afterSend f)).out = s.out.extend f)
    (hlast : (k ((y.reading (peerFrame y.cfg r seq ctx)).afterSend f)).lastFrame = f)
    (hvalid : (k ((y.reading (peerFrame y.cfg r seq ctx)).afterSend f)).lastValid = true) :
    SentByStep s (y.withTick (peerFrame y.cfg r seq ctx)) f :=
  sentByStep_of_send ((step_withTick_peerFrame hp r seq ctx).trans (congrArg finishTick hrow)) rfl hquiet hout hlast
    hvalid

end

/-! ### The rows -/

section
variable {s : State}

/-- An ACK in `Idle` is answered with NOOP (R133). -/
theorem txNoop_sentByStep (hp : s.cfg.legal) : SentByStep s (s.readyToSend .txNoop) (sentFrame s.cfg .noop 0 0 []) :=
  sentByStep_of_row (y := { s with engine := .idle, rs := [] }) hp (r := .ack) (Sent.andThen_id _).symm (.inr rfl) rfl rfl
    rfl

theorem txPing_sentByStep (s : State) : SentByStep s (s.readyToSend .txPing) (sentFrame s.cfg .ping 0 0 []) :=
  ⟨_, rfl, rfl, rfl, rfl, rfl⟩

/-- START is answered with ACK (R128). -/
theorem txAck_sentByStep (hp : s.cfg.legal) (seq ctx : Byte) :
    SentByStep s (s.readyToSend (.txAck seq ctx)) (sentFrame s.cfg .ack seq ctx []) :=
  sentByStep_of_row hp (r := .start) (k := fun z => z.setEngine .receiving) rfl (.inl nofun) rfl rfl rfl

theorem txReject_sentByStep (hp : s.cfg.legal) {ty : Byte} (hty : origin ty = s.cfg.rxParity) (seq ctx : Byte) :
    SentByStep s (s.readyToSend (.txReject seq ctx ty)) (sentFrame s.cfg .reject seq ctx [ty]) :=
  sentByStep_of_send (k := id)
    ((step_withTick_spoilt (s := s.setRs []) hp hty seq ctx).trans (congrArg finishTick (Sent.andThen_id _).symm)) rfl
    (.inr rfl) rfl rfl rfl

/-- A transfer of which nothing has been sent is announced under its type and length (R64). -/
theorem startFrame_freshTransfer {p : Params} {dt : Byte} (hdt : origin dt = p.txParity) (seq ctx : Byte)
    (rem : BitVec 16) :
    startFrame p (freshTransfer seq ctx (dt &&& 0xFE) (zeros rem.toNat)) =
      sentFrame p .start seq ctx (startBody dt rem) := by
  have hparity : ∀ t : Byte, withParity (t &&& 0xFE) (origin t) = t := by decide
  have hrem : (freshTransfer seq ctx (dt &&& 0xFE) (zeros rem.toNat)).rem = rem.toNat := by
    simp [Transfer.rem, freshTransfer]
  rw [startFrame, hrem, BitVec.ofNat_toNat, BitVec.setWidth_eq, ← hdt]
  exact congrArg (fun t => sentFrame p .start seq ctx (startBody t rem)) (hparity dt)

/-- A NOOP in `Idle` starts the waiting transfer (R121). -/
theorem txStart_sentByStep (hp : s.cfg.legal) {dt : Byte} (hdt : origin dt = s.cfg.txParity) (seq ctx : Byte)
    (rem : BitVec 16) :
    SentByStep s (s.readyToSend (.txStart seq ctx dt rem)) (sentFrame s.cfg .start seq ctx (startBody dt rem)) := by
  rw [← startFrame_freshTransfer hdt]
  exact sentByStep_of_row hp (r := .noop) (k := fun z => z.setEngine .awaitStartAck)
    (y := { s with engine := .idle, q := [freshTransfer seq ctx (dt &&& 0xFE) (zeros rem.toNat)] }) rfl (.inl nofun) rfl
    rfl rfl

/-- An ACK after the last fragment is answered with END (R132). -/
theorem txEnd_sentByStep (hp : s.cfg.legal) (seq ctx : Byte) :
    SentByStep s (s.readyToSend (.txEnd seq ctx)) (sentFrame s.cfg .fin seq ctx []) :=
  sentByStep_of_row hp (r := .ack) (k := fun z => (z.setQ []).setEngine .idle)
    (y := { s with engine := .sending, q := [freshTransfer seq ctx 0x0E []], rs := [] }) rfl (.inr rfl) rfl rfl rfl

/-- The next fragment of a transfer of which nothing has been sent is its whole payload if that fits (R66). -/
theorem dataFrame_freshTransfer {p : Params} (r : KindRow) (seq ctx : Byte) {body : Bytes}
    (hbody : body.length ≤ p.bodyMax) :
    dataFrame p (freshTransfer seq ctx (typeByte (kindOf r) 0) body) = sentFrame p r seq ctx body := by
  have hparity : ∀ (k : Kind) (o : BitVec 1), withParity (typeByte k 0) o = typeByte k o := by decide
  have hfragment : (freshTransfer seq ctx (typeByte (kindOf r) 0) body).fragment p = body := by
    simp [Transfer.fragment, Transfer.fragmentLength, Transfer.rem, freshTransfer, hbody]
  rw [dataFrame, hfragment]
  exact congrArg (fun t => encodeFrame p t seq ctx body) (hparity _ _)

/-- An ACK in `Sending` is answered with the next fragment (R131). -/
theorem fragment_sentByStep (hp : s.cfg.legal) (r : KindRow) (seq ctx : Byte) {body : Bytes}
    (hbody : fragmentFits s.cfg body = true) :
    SentByStep s (s.readyToContinue (freshTransfer seq ctx (typeByte (kindOf r) 0) body))
      (sentFrame s.cfg r seq ctx body) := by
  obtain ⟨hne, hlen⟩ := fragmentFits_iff.mp hbody
  rw [← dataFrame_freshTransfer r seq ctx hlen]
  refine sentByStep_of_row hp (r := .ack)
    (k := fun z => z.setQ [(freshTransfer seq ctx (typeByte (kindOf r) 0) body).advance s.cfg])
    (y := { s with engine := .sending, q := [freshTransfer seq ctx (typeByte (kindOf r) 0) body], rs := [] })
    ?_ (.inl nofun) rfl rfl rfl
  have hmore : (freshTransfer seq ctx (typeByte (kindOf r) 0) body).moreRemains = true := by
    simpa [Transfer.moreRemains, Transfer.rem, freshTransfer, List.length_pos_iff] using hne
  exact if_pos hmore

/-- A marker recorded in an empty store is its one entry (R151). -/
theorem rsSetMarker_of_empty (hrs : s.rs = []) (hroom : s.cfg.rsEntries ≠ some 0) (t c : Byte) :
    s.rsSetMarker t c = s.setRs [⟨t, c, [s.cfg.marker]⟩] := by
  simp [State.rsSetMarker, hrs, hroom]

/-- A tick that ends in `Idle` with one entry to be answered with PONG sends that PONG (R155, R156). -/
theorem finishTick_of_autoPong {e : Entry} (hidle : s.engine = .idle) (hrs : s.rs = [e])
    (hrow : s.regRow (kind e.ty) = .autoPong) (hready : s.txReady = true) :
    finishTick (.ok s) = .next (((s.afterSend (pongFrame s.cfg e.ctx)).setRs []).setStatus .ok) := by
  have hflush : s.idleFlush = .ok ((s.afterSend (pongFrame s.cfg e.ctx)).setRs []) := by
    rw [State.idleFlush, hrs]
    simp only [flushEntries, hrow, State.send_eq_afterSend hready]
  rw [finishTick_ok, State.endTick_of_idle hidle, hflush]
  rfl

/-- A PING recorded in `Idle` is answered with PONG by the flush that ends its tick (R156). -/
theorem ping_sentByStep {y : State} (hp : y.cfg.legal) (hidle : y.engine = .idle) (hrs : y.rs = [])
    (hrow : y.regRow (kind (peerType y.cfg .ping)) = .autoPong) (ctx : Byte) :
    SentByStep y (y.withTick (peerFrame y.cfg .ping 0 ctx)) (pongFrame y.cfg ctx) := by
  have ⟨_, _, _, hroom, _⟩ := hp
  have hmarker := rsSetMarker_of_empty (s := y.reading (peerFrame y.cfg .ping 0 ctx)) hrs hroom (peerType y.cfg .ping) ctx
  have hstep := (step_withTick_peerFrame hp .ping 0 ctx).trans (congrArg (finishTick <| .ok ·) hmarker)
  exact ⟨_, hstep.trans (finishTick_of_autoPong hidle rfl hrow rfl), rfl, rfl, rfl, rfl⟩

theorem txPong_sentByStep (hp : s.cfg.legal) (ctx : Byte) :
    SentByStep s (s.readyToSend (.txPong ctx)) (sentFrame s.cfg .pong 0 ctx []) := by
  refine ping_sentByStep (y := ({ s with engine := .idle, rs := [] } : State).setRegRow 1 .autoPong) hp rfl rfl ?_ ctx
  rw [peerType, kind_typeByte, State.regRow_setRegRow]
  rfl

end

/-! ### Every TX row -/

/-- The state made ready for an instruction that is sent has a host command in front of the pending requests. -/
theorem readyToSend_pending {i : Instr} {s : State} {f : Bytes} (h : encode s.cfg i = .outbound f) :
    ∃ w peer, (s.readyToSend i).pending = .command w peer .latest [] :: s.pending := by
  cases i with
  | txNoop | txPing | txPong | txAck | txReject | txStart | txEnd | txData0F | txData11 | txData21 | txData41
  | txData81 => exact ⟨_, _, rfl⟩
  | _ => cases h

theorem readyToSend_sentByStep {i : Instr} {s : State} {f : Bytes} (hp : s.cfg.legal)
    (hw : i.wellFormed s.cfg = true) (h : encode s.cfg i = .outbound f)
    (hreject : ∀ seq ctx ty, i = .txReject seq ctx ty → origin ty = s.cfg.rxParity) :
    SentByStep s (s.readyToSend i) f := by
  cases i with
  | txNoop => cases h; exact txNoop_sentByStep hp
  | txPing => cases h; exact txPing_sentByStep s
  | txPong ctx => cases h; exact txPong_sentByStep hp ctx
  | txAck seq ctx => cases h; exact txAck_sentByStep hp seq ctx
  | txReject seq ctx ty => cases h; exact txReject_sentByStep hp (hreject seq ctx ty rfl) seq ctx
  | txStart seq ctx dt rem =>
    obtain ⟨_, hdt, _⟩ := startFits_iff.mp hw
    cases h; exact txStart_sentByStep hp hdt seq ctx rem
  | txEnd seq ctx => cases h; exact txEnd_sentByStep hp seq ctx
  | txData0F seq ctx body => cases h; exact fragment_sentByStep hp .data7 seq ctx hw
  | txData11 x seq ctx body => cases h; exact fragment_sentByStep hp (.data8 x) seq ctx hw
  | txData21 x seq ctx body => cases h; exact fragment_sentByStep hp (.data16 x) seq ctx hw
  | txData41 x seq ctx body => cases h; exact fragment_sentByStep hp (.data32 x) seq ctx hw
  | txData81 x seq ctx body => cases h; exact fragment_sentByStep hp (.data64 x) seq ctx hw
  | _ => cases h

/-- Settles O20: the command that sends the row's frame sends it once and ends with `OK`; the row alone is `Send` of the
same frame. -/
theorem transmittedRowsRunInCommands : Obligations.TransmittedRowsRunInCommands := by
  intro s i f hp hw h hreject
  obtain ⟨t, hstep, hout, hlast, hvalid, hstatus⟩ := readyToSend_sentByStep hp hw h hreject
  have halone := exec_of_encode_outbound_ready (s := { s with txAns := [] }) h rfl
  exact ⟨readyToSend_pending h, t, _, hstep, halone, hout, hlast, hvalid, hstatus, hout.symm, rfl, rfl⟩

end Sys2Proof.Machine
end

section
/-! The checksum as an exclusive-or over the whole frame (R75, R82), and what the decoder reads of any chunk (R55, R78,
R80). -/

namespace Sys2Proof

/-! ### The exclusive-or of a byte string -/

/-- The exclusive-or of every byte (R75). -/
def xorAll (l : Bytes) : Byte := l.foldl (· ^^^ ·) 0

theorem xorAll_cons (b : Byte) (l : Bytes) : xorAll (b :: l) = b ^^^ xorAll l :=
  (foldl_xor l (0 ^^^ b)).trans (congrArg (· ^^^ xorAll l) BitVec.zero_xor)

/-- A byte left out goes missing from the fold, wherever it stands: order does not matter (R82). -/
theorem xorAll_eraseIdx (l : Bytes) (i : Nat) : xorAll (l.eraseIdx i) = xorAll l ^^^ l.getD i 0 := by
  induction l generalizing i with
  | nil => simp [xorAll]
  | cons b l ih =>
    cases i with
    | zero => simp [xorAll_cons, BitVec.xor_comm b]
    | succ i => simp [xorAll_cons, ih, BitVec.xor_assoc]

/-- Overwriting one byte changes the fold by the difference of the two bytes (R82). -/
theorem xorAll_set {l : Bytes} {i : Nat} (hi : i < l.length) (b : Byte) :
    xorAll (l.set i b) = xorAll l ^^^ (l.getD i 0 ^^^ b) := by
  have hsame : xorAll ((l.set i b).eraseIdx i) = xorAll (l.eraseIdx i) := by rw [List.eraseIdx_set_eq]
  rw [xorAll_eraseIdx, xorAll_eraseIdx] at hsame
  have hb : (l.set i b).getD i 0 = b := by simp [List.getD, hi]
  rw [← BitVec.xor_assoc, ← hsame, hb, BitVec.xor_assoc, BitVec.xor_self, BitVec.xor_zero]

/-! ### The checksum -/

theorem getD_take {l : Bytes} {n i : Nat} (hi : i < n) : (l.take n).getD i 0 = l.getD i 0 := by
  rw [List.getD, List.getD, List.getElem?_take_of_lt hi]

/-- The checksum folds the first `n` bytes but the one at offset 4 (R75). -/
theorem checksum_eq_xorAll_eraseIdx (f : Bytes) {n : Nat} (hn : 0 < n) :
    checksum f n = xorAll ((f.take n).eraseIdx 4) := by
  obtain ⟨n, rfl⟩ := Nat.exists_eq_succ_of_ne_zero hn.ne'
  cases f with
  | nil => rfl
  | cons b f =>
    simp only [checksum, List.take_succ_cons, List.drop_one, List.tail_cons, List.headD_cons, List.eraseIdx_cons_succ]
    rw [xorAll_cons, foldl_xor]
    rfl

/-- The checksum byte repairs the fold: it agrees with the checksum exactly if all `n` bytes fold to zero (R82). -/
theorem checksum_eq_iff (f : Bytes) {n : Nat} (hn : 4 < n) :
    checksum f n = f.getD 4 0 ↔ xorAll (f.take n) = 0 := by
  rw [checksum_eq_xorAll_eraseIdx f (by omega), xorAll_eraseIdx, getD_take hn]
  exact xor_right_eq_self_iff

/-- Nothing at offset `n` or above enters the checksum (R75). -/
theorem checksum_take (f : Bytes) {n : Nat} (hn : 0 < n) : checksum (f.take n) n = checksum f n := by
  rw [checksum_eq_xorAll_eraseIdx _ hn, checksum_eq_xorAll_eraseIdx _ hn, List.take_take, Nat.min_self]

/-- The offsets but one are those of the list with one taken out. -/
theorem range_filter_ne {n k : Nat} (hk : k < n) :
    (List.range n).filter (fun i => i ≠ k) = (List.range n).eraseIdx k := by
  have herase := List.nodup_range.erase_getElem k (by rwa [List.length_range] : k < (List.range n).length)
  rw [List.getElem_range, List.nodup_range.erase_eq_filter] at herase
  rw [← herase]
  exact List.filter_congr fun i _ => by simp [bne, beq_eq_decide]

theorem map_getD_range {f : Bytes} {n : Nat} (hn : n ≤ f.length) :
    (List.range n).map (fun i => f.getD i 0) = f.take n := by
  refine List.ext_getElem (by simp [hn]) fun i hi _ => ?_
  have : i < f.length := by simp at hi; omega
  simp [List.getD, this]

/-- Settles O1: leaving offset 4 out of the offsets leaves the fifth byte out of the fold. -/
theorem checksumFoldsAllButOffsetFour : Obligations.ChecksumFoldsAllButOffsetFour := by
  intro f n hmin hmax
  rw [checksum_eq_xorAll_eraseIdx f (by omega), ← map_getD_range hmax, List.eraseIdx_map,
    ← range_filter_ne (by omega), xorAll, List.foldl_map]

/-! ### Encoded frames -/

/-- Settles O2: the frame with its header written out, and its length byte read back (R8). -/
theorem encodeBuildsTheFrame : Obligations.EncodeBuildsTheFrame := by
  intro p t s c body hp
  obtain ⟨hnat, _⟩ := Machine.lengthByte_toNat hp body
  refine ⟨encodeFrame_length p hp t s c body, hnat, ?_⟩
  simpa using encodeFrame_eq p t s c body

/-- Settles O3: an encoded frame decodes to its fields, which are valid with the checksum encoded. -/
theorem decodeFrameInvertsEncode : Obligations.DecodeFrameInvertsEncode := by
  intro p t s c body hp d
  have hd : d = (t, Frame.encoded p t s c body) := decodeFrame_encodeFrame hp t s c body
  rw [hd]
  exact ⟨rfl, rfl, rfl, rfl, rfl, rfl, (frameValid_encoded p t s c body _).trans (beq_self_eq_true _)⟩

/-! ### Any chunk -/

/-- The frame of a chunk, its header read by offset and its body ended by the length byte (R50, R78). -/
def Frame.ofChunk (raw : Bytes) : Frame where
  seq := raw.getD 1 0
  ctx := raw.getD 2 0
  cks := raw.getD 4 0
  r5 := raw.getD 5 0
  r6 := raw.getD 6 0
  r7 := raw.getD 7 0
  body := (raw.take (raw.getD 3 0).toNat).drop 8
  synthetic := false

section
variable {raw : Bytes} (hmin : 8 ≤ (raw.getD 3 0).toNat) (hmax : (raw.getD 3 0).toNat ≤ raw.length)
include hmin hmax

theorem decodeFrame_real (p : Params) : decodeFrame p raw = (raw.getD 0 0, Frame.ofChunk raw) := by
  obtain ⟨t, s, c, n, k, r5, r6, r7, rest, rfl⟩ := exists_header raw (hmin.trans hmax)
  have hbody : rest.take (n.toNat - 8) =
      ((t :: s :: c :: n :: k :: r5 :: r6 :: r7 :: rest).take n.toNat).drop 8 := by rw [List.drop_take]; rfl
  rw [decodeFrame_header p (n := n) hmin hmax, hbody]
  rfl

theorem Frame.ofChunk_length : (Frame.ofChunk raw).length = (raw.getD 3 0).toNat := by
  simp only [Frame.length, Frame.ofChunk, List.length_drop, List.length_take]
  omega

/-- A real frame's own bytes are those the chunk holds below its length (R58). -/
theorem frameBytes_ofChunk : frameBytes (raw.getD 0 0) (Frame.ofChunk raw) = raw.take (raw.getD 3 0).toNat := by
  have hlen : BitVec.ofNat 8 (Frame.ofChunk raw).length = raw.getD 3 0 := by
    rw [Frame.ofChunk_length hmin hmax, BitVec.ofNat_toNat, BitVec.setWidth_eq]
  obtain ⟨t, s, c, n, k, r5, r6, r7, rest, rfl⟩ := exists_header raw (hmin.trans hmax)
  obtain ⟨m, hm⟩ : ∃ m, n.toNat = m + 8 := Nat.exists_eq_add_of_le' hmin
  rw [frameBytes, hlen]
  simp [Frame.ofChunk, hm]

/-- The checksum is recomputed over the chunk (R80). -/
theorem frameValid_ofChunk : Machine.frameValid (raw.getD 0 0) (Frame.ofChunk raw) =
    (checksum raw (raw.getD 3 0).toNat == raw.getD 4 0) := by
  rw [Machine.frameValid, frameBytes_ofChunk hmin hmax, Frame.ofChunk_length hmin hmax, checksum_take raw (by omega)]
  rfl

/-- A real frame is valid exactly if the bytes below its length, checksum byte and all, fold to zero (R80, R82). -/
theorem frameValid_decodeFrame_iff (p : Params) :
    Machine.frameValid (decodeFrame p raw).1 (decodeFrame p raw).2 = true ↔
      xorAll (raw.take (raw.getD 3 0).toNat) = 0 := by
  rw [decodeFrame_real hmin hmax, frameValid_ofChunk hmin hmax, beq_iff_eq, checksum_eq_iff raw (by omega)]

end

/-- Settles O6: the bytes of a valid frame fold to zero, and one byte changed leaves the difference behind. -/
theorem singleByteCorruptionIsDetected : Obligations.SingleByteCorruptionIsDetected := by
  intro p raw i b hmin hmax hi hne hb hvalid
  have hlen : (raw.set i b).getD 3 0 = raw.getD 3 0 := by simp [List.getD, List.getElem?_set_ne hne]
  rw [frameValid_decodeFrame_iff hmin hmax] at hvalid
  rw [Bool.eq_false_iff, Ne, frameValid_decodeFrame_iff (by rwa [hlen]) (by rwa [hlen, List.length_set]), hlen,
    List.take_set, xorAll_set (by rw [List.length_take]; omega), hvalid, getD_take hi,
    xor_left_eq_self_iff, xor_eq_zero_iff]
  exact hb.symm

/-- Settles O7: a chunk that ends before the offset stays as it is; of any other the decoder reads the header, the number
of bytes and the body below `length`. -/
theorem paddingIsInvisible : Obligations.PaddingIsInvisible := by
  intro p raw i b hn hi
  by_cases hlen : raw.length ≤ i
  · rw [List.set_eq_of_length_le hlen]
  · obtain ⟨t, s, c, n, k, r5, r6, r7, rest, rfl⟩ := exists_header raw (by omega)
    obtain ⟨j, rfl⟩ : ∃ j, i = j + 8 := ⟨i - 8, by omega⟩
    have hbody : n.toNat - 8 ≤ j := Nat.sub_le_of_le_add hn
    simp [decodeFrame, List.take_set_of_le hbody]

/-- Settles O5: the fields read by offset, and the checksum recomputed over the chunk. -/
theorem realFrameFields : Obligations.RealFrameFields := by
  intro p raw _ hmin hmax n d
  have hd : d = (raw.getD 0 0, Frame.ofChunk raw) := decodeFrame_real hmin hmax p
  rw [hd]
  exact ⟨rfl, rfl, rfl, Frame.ofChunk_length hmin hmax, rfl, rfl, rfl, frameValid_ofChunk hmin hmax⟩

end Sys2Proof
end

section
/-! The queue (R14, R90, R98): SUBMIT appends at its tail, an ACK in `Sending` advances or removes its head, nothing
else writes it. -/

namespace Sys2Proof.Machine

/-! ### The shared operations -/

theorem State.send_q (s : State) (f : Bytes) : (s.send f).state.q = s.q := by
  rcases s.send_cases f with ⟨_, h⟩ | ⟨_, h⟩ <;> rw [h] <;> rfl

/-- The writes after a `Send` are made on a state with the queue as it was, or not at all (R180). -/
theorem State.send_andThen_q (s : State) (f : Bytes) (k : State → State) :
    ((s.send f).andThen k).state.q = (k (s.afterSend f)).q ∨ ((s.send f).andThen k).state.q = s.q := by
  rcases s.send_cases f with ⟨_, h⟩ | ⟨_, h⟩ <;> rw [h]
  · exact .inl rfl
  · exact .inr rfl

theorem State.rsAppend_q (s : State) (t c : Byte) (b : Bytes) : (s.rsAppend t c b).q = s.q := by
  rcases s.rsAppend_cases t c b with ⟨_, _, _, h⟩ | ⟨_, _, _, h⟩ | h <;> rw [h] <;> rfl

theorem State.rsSetMarker_q (s : State) (t c : Byte) : (s.rsSetMarker t c).q = s.q := by
  rcases s.rsSetMarker_cases t c with ⟨_, _, h⟩ | ⟨_, _, h⟩ | h <;> rw [h] <;> rfl

theorem State.idleFlush_q (s : State) : s.idleFlush.state.q = s.q := by
  rcases flushEntries_frame s.rs s with ⟨t, h, hsame⟩ | ⟨t, h, hsame⟩ <;> rw [State.idleFlush, h] <;> exact hsame.q

theorem Sent.andThen_setStatus_q (r : Sent) (st : Status) :
    (r.andThen fun s => s.setStatus st).state.q = r.state.q := by cases r <;> rfl

theorem State.endTick_q (s : State) : s.endTick.state.q = s.q := by
  rw [State.endTick, Sent.andThen_setStatus_q]
  split
  · exact s.idleFlush_q
  · rfl

theorem finishTick_q {r : Sent} {t : State} (h : finishTick r = .next t) : t.q = r.state.q := by
  cases r with
  | ok s =>
    rw [finishTick_ok, Sent.toOutcome_eq] at h
    cases h
    exact s.endTick_q
  | failed s =>
    cases h
    rfl

/-! ### The rows -/

/-- The head of a queue is advanced past its next fragment, or removed with nothing left to send, in `Sending` (R98). -/
def State.HeadMoves (s : State) (q : List Transfer) : Prop :=
  ∃ h rest, s.engine = .sending ∧ s.q = h :: rest ∧ (q = h.advance s.cfg :: rest ∨ (h.rem = 0 ∧ q = rest))

theorem noopRow_q (s : State) : (noopRow s).state.q = s.q := by
  rcases noopRow_cases s with ⟨_, h⟩ | ⟨_, _, _, _, h⟩ | ⟨_, _, h⟩ <;> rw [h]
  · exact s.send_q _
  · exact (s.send_andThen_q _ _).elim id id
  · rfl

theorem ackRow_q (s : State) : (ackRow s).state.q = s.q ∨ s.HeadMoves (ackRow s).state.q := by
  rcases ackRow_cases s with ⟨_, heq⟩ | ⟨_, heq⟩ | ⟨h, rest, he, hq, _, heq⟩ | ⟨h, rest, he, hq, hrem, heq⟩ |
    ⟨_, _, heq⟩ | ⟨_, heq⟩ <;> rw [heq]
  · exact .inl (s.send_q _)
  · exact .inl rfl
  · exact (s.send_andThen_q _ _).symm.imp id fun hsent => ⟨h, rest, he, hq, .inl hsent⟩
  · exact (s.send_andThen_q _ _).symm.imp id fun hsent => ⟨h, rest, he, hq, .inr ⟨hrem, hsent⟩⟩
  · exact .inl rfl
  · exact .inl rfl

theorem rejectRow_q (s : State) : (rejectRow s).state.q = s.q := by
  rcases rejectRow_cases s with ⟨_, h⟩ | ⟨_, h⟩ <;> rw [h]
  · exact s.send_q _
  · rfl

theorem dataRow_q (r : KindRow) (f : Frame) (s : State) : (dataRow r f s).state.q = s.q := by
  rcases dataRow_cases r f s with ⟨_, _, h⟩ | ⟨_, h⟩ <;> rw [h]
  · exact (s.send_andThen_q _ _).elim (fun hsent => hsent.trans (State.rsAppend_q _ _ _ _)) id
  · rfl

/-- Only the ACK row writes the queue. -/
theorem peerRow_q (r : KindRow) (f : Frame) (s : State) :
    (peerRow r f s).state.q = s.q ∨ s.HeadMoves (peerRow r f s).state.q := by
  cases r with
  | noop => exact .inl (noopRow_q s)
  | ping | pong => exact .inl (s.rsSetMarker_q _ _)
  | ack => exact ackRow_q s
  | reject => exact .inl (rejectRow_q s)
  | start | fin => exact .inl ((s.send_andThen_q _ _).elim id id)
  | data7 | data8 | data16 | data32 | data64 => exact .inl (dataRow_q _ f s)

theorem tickOnRow_q {r : KindRow} {f : Frame} {s t : State} (h : tickOnRow r f s = .next t) :
    t.q = s.q ∨ s.HeadMoves t.q := by
  rw [tickOnRow_eq] at h
  rcases tickPeerFrame_cases r f (peerRow r f) s with ⟨_, heq⟩ | ⟨_, heq⟩ <;> rw [heq] at h <;> rw [finishTick_q h]
  · exact peerRow_q r f s
  · exact .inl (s.send_q _)

/-! ### The instructions -/

theorem execTick_q {s t : State} (h : execTick s = .next t) : t.q = s.q ∨ s.HeadMoves t.q := by
  rcases execTick_cases s with heq | heq | ⟨r, f, heq⟩ <;> rw [heq] at h
  · cases h
    exact .inl rfl
  · exact .inl (finishTick_q h)
  · exact tickOnRow_q h

theorem execSubmit_q {payload : Bytes} {ty ctx : Byte} {s t : State} (h : execSubmit payload ty ctx s = .next t) :
    t.q = s.q ∨ t.q = s.q ++ [newTransfer payload ty ctx] := by
  rcases execSubmit_cases payload ty ctx s with ⟨_, heq⟩ | ⟨_, _, heq⟩ | ⟨_, _, _, heq⟩ | ⟨_, _, _, heq⟩ <;>
    rw [heq] at h <;> cases h
  · exact .inl rfl
  · exact .inl rfl
  · exact .inl rfl
  · exact .inr rfl

/-- Settles O30: the ticks move the head or keep the queue, SUBMIT appends or keeps it, the rest keep it. -/
theorem queueIsFifo : Obligations.QueueIsFifo := by
  intro i s t h
  rcases exec_cases i s with heq | ⟨r, f, heq⟩ | ⟨f, heq⟩ | rfl | ⟨payload, ty, ctx, rfl⟩ | ⟨ty, hd, rfl⟩ | rfl
  · exact .inl (finishTick_q (heq ▸ h))
  · exact (tickOnRow_q (heq ▸ h)).imp id .inr
  · rw [heq, Sent.toOutcome_eq] at h
    cases h
    exact .inl (s.send_q f)
  · exact (execTick_q h).imp id .inr
  · exact (execSubmit_q h).imp id fun happended => .inl ⟨payload, ty, ctx, rfl, happended⟩
  · cases h
    exact .inl rfl
  · rw [exec, execPing, Sent.toOutcome_eq] at h
    cases h
    exact .inl ((Sent.andThen_setStatus_q _ _).trans (s.send_q _))

/-- Settles O52: the premises rule out the three refusals of R91. -/
theorem submitAppendsTransfer : Obligations.SubmitAppendsTransfer := by
  intro s payload ty ctx hkind hlen hroom
  rcases execSubmit_cases payload ty ctx s with ⟨h, _⟩ | ⟨_, h, _⟩ | ⟨_, _, h, _⟩ | ⟨_, _, _, heq⟩
  · omega
  · exact absurd hlen (Nat.not_le_of_lt h)
  · exact absurd h hroom
  · exact heq

end Sys2Proof.Machine
end

section
/-! The sender of an uninterrupted transfer (R93 to R96, R131): what its head has sent after some of the fragments, the
run of ACKs that sends them, and the payload cut into fragments. -/

namespace Sys2Proof.Machine

/-! ### The payload cut into fragments -/

/-- The `k`-th fragment's body of a payload (R93). -/
def cutAt (p : Params) (payload : Bytes) (k : Nat) : Bytes := (payload.drop (k * p.bodyMax)).take p.bodyMax

/-- The first `n` fragments are the first bytes of the payload, in order. -/
theorem cutAt_flatten (p : Params) (payload : Bytes) (n : Nat) :
    ((List.range n).map (cutAt p payload)).flatten = payload.take (n * p.bodyMax) := by
  induction n with
  | zero => simp
  | succ n ih =>
    rw [List.range_succ, List.map_append, List.flatten_append, ih, Nat.succ_mul, List.take_add]
    simp [cutAt]

/-- `ceil(L / BODY_MAX)` as a bound (R94): a fragment is one of them as long as bytes remain for it. -/
theorem lt_fragmentCount_iff {p : Params} (hp : p.legal) (k len : Nat) :
    k < fragmentCount p len ↔ k * p.bodyMax < len := by
  have hceil : fragmentCount p len ≤ k ↔ len ≤ p.bodyMax * k := ceilDiv_le_iff_le_mul (bodyMax_pos hp)
  rw [← not_le, hceil, not_le, Nat.mul_comm]

theorem le_fragmentCount_mul {p : Params} (hp : p.legal) (len : Nat) : len ≤ fragmentCount p len * p.bodyMax :=
  Nat.le_of_not_lt fun h => Nat.lt_irrefl _ ((lt_fragmentCount_iff hp _ len).mpr h)

/-! ### The head of the queue -/

/-- The transfer after its first `k` fragments (R131). -/
def Transfer.afterFragments (p : Params) (h : Transfer) (k : Nat) : Transfer :=
  { h with cursor := min (k * p.bodyMax) h.payload.length, nextSeq := BitVec.ofNat 8 k }

theorem Transfer.afterFragments_zero {h : Transfer} (hcursor : h.cursor = 0) (hseq : h.nextSeq = 0) (p : Params) :
    h.afterFragments p 0 = h := by
  cases h
  simp_all [Transfer.afterFragments]

theorem Transfer.afterFragments_rem (p : Params) (h : Transfer) (k : Nat) :
    (h.afterFragments p k).rem = h.payload.length - k * p.bodyMax := by
  simp only [Transfer.afterFragments, Transfer.rem]
  omega

theorem Transfer.afterFragments_advance (p : Params) (h : Transfer) (k : Nat) :
    (h.afterFragments p k).advance p = h.afterFragments p (k + 1) := by
  rw [Transfer.advance, Transfer.fragmentLength, Transfer.afterFragments_rem]
  simp only [Transfer.afterFragments, Transfer.mk.injEq, true_and, Nat.succ_mul, BitVec.ofNat_add]
  exact ⟨by omega, rfl⟩

theorem Transfer.afterFragments_fragment (p : Params) (h : Transfer) (k : Nat) :
    (h.afterFragments p k).fragment p = cutAt p h.payload k := by
  have hdrop : h.payload.drop (min (k * p.bodyMax) h.payload.length) = h.payload.drop (k * p.bodyMax) :=
    List.drop_eq_drop_iff.mpr (by omega)
  rw [Transfer.fragment, Transfer.fragmentLength, Transfer.afterFragments_rem, cutAt, ← hdrop]
  refine List.take_eq_take_iff.mpr ?_
  simp only [Transfer.afterFragments, List.length_drop]
  omega

/-- The fragment sent after `k` others carries the `k`-th cut of the payload under the sequence number `k` modulo 256
(R66, R93). -/
theorem Transfer.afterFragments_dataFrame (p : Params) (h : Transfer) (k : Nat) :
    dataFrame p (h.afterFragments p k) =
      encodeFrame p (withParity h.dtype p.txParity) (BitVec.ofNat 8 k) h.ctx (cutAt p h.payload k) := by
  rw [dataFrame, Transfer.afterFragments_fragment]
  rfl

/-! ### The run of ACKs -/

/-- A transport that accepts every append goes on doing so. -/
theorem State.linkUp_tail {s t : State} (h : s.linkUp) (ht : t.txAns = s.txAns.tail) : t.linkUp :=
  fun b hb => h b (List.mem_of_mem_tail (ht ▸ hb))

theorem tickPeerFrame_of_valid {r : KindRow} {f : Frame} {s : State} (h : frameValid (peerType s.cfg r) f = true)
    (row : State → Sent) : tickPeerFrame r f row s = finishTick (row s) := by
  rw [tickPeerFrame, if_pos h]

/-- `s`, with the transfer `h` at the head, after the tick in which the next fragment went out (R131). -/
def State.afterFragment (s : State) (h : Transfer) (rest : List Transfer) : State :=
  ((s.afterSend (dataFrame s.cfg h)).setQ (h.advance s.cfg :: rest)).setStatus .ok

/-- An ACK in `Sending` with payload left sends the next fragment and advances the head (R131). -/
theorem exec_rxAck_sendsFragment {s : State} {f : Frame} {h : Transfer} {rest : List Transfer}
    (hvalid : frameValid (peerType s.cfg .ack) f = true) (he : s.engine = .sending) (hq : s.q = h :: rest)
    (hmore : 0 < h.rem) (hready : s.txReady = true) : exec (.rxAck f) s = .next (s.afterFragment h rest) := by
  have hrow : ackRow s = .ok ((s.afterSend (dataFrame s.cfg h)).setQ (h.advance s.cfg :: rest)) := by
    simp only [ackRow, he, sendingAckRow, hq, Transfer.moreRemains, hmore, decide_true, if_true,
      State.send_eq_afterSend hready, Sent.andThen_ok]
  have hbusy : ((s.afterSend (dataFrame s.cfg h)).setQ (h.advance s.cfg :: rest)).engine ≠ .idle := by
    simp [State.afterSend, he]
  calc exec (.rxAck f) s = finishTick (ackRow s) := tickPeerFrame_of_valid hvalid ackRow
    _ = .next (s.afterFragment h rest) := by rw [hrow, finishTick_ok_of_quiet (.inl hbusy)]; rfl

/-- As long as payload remains, each of `n` ACKs sends one more fragment of the transfer at the head (R131). -/
theorem runAcks_sendsFragments {f : Frame} {h : Transfer} {rest : List Transfer} (n : Nat) {k : Nat} {s : State}
    (hvalid : frameValid (peerType s.cfg .ack) f = true) (he : s.engine = .sending)
    (hq : s.q = h.afterFragments s.cfg k :: rest) (hlink : s.linkUp)
    (hmore : ∀ j < k + n, j * s.cfg.bodyMax < h.payload.length) :
    ∃ t, runAcks f n s = some ((List.range' k n).map fun j => dataFrame s.cfg (h.afterFragments s.cfg j), t) ∧
      t.out = s.out.extend ((List.range' k n).map fun j => dataFrame s.cfg (h.afterFragments s.cfg j)).flatten ∧
      t.engine = .sending ∧ t.q = h.afterFragments s.cfg (k + n) :: rest := by
  induction n generalizing k s with
  | zero => exact ⟨s, rfl, (Memory.extend_nil _).symm, he, hq⟩
  | succ n ih =>
    have hrem : 0 < (h.afterFragments s.cfg k).rem := by
      rw [Transfer.afterFragments_rem]
      exact Nat.sub_pos_of_lt (hmore k (by omega))
    have hstep := exec_rxAck_sendsFragment hvalid he hq hrem (State.txReady_of_linkUp hlink)
    have hadvanced : (s.afterFragment (h.afterFragments s.cfg k) rest).q = h.afterFragments s.cfg (k + 1) :: rest :=
      congrArg (· :: rest) (h.afterFragments_advance s.cfg k)
    obtain ⟨t, hrun, hout, hengine, hqueue⟩ := ih (s := s.afterFragment (h.afterFragments s.cfg k) rest) hvalid he
      hadvanced (State.linkUp_tail hlink rfl) fun j hj => hmore j (by omega)
    refine ⟨t, ?_, ?_, hengine, ?_⟩
    · simp only [runAcks, hstep, hrun]
      rfl
    · rw [hout, List.range'_succ, List.map_cons, List.flatten_cons, Memory.extend_append]
      rfl
    · rw [hqueue, Nat.add_right_comm]
      rfl

/-- Settles O59: `ceil(L / BODY_MAX)` ACKs, each of which finds payload left; the cuts are the payload in order. -/
theorem fragmentsCarryThePayload : Obligations.FragmentsCarryThePayload := by
  intro s f h rest hp hvalid he hq hcursor hseq hlink
  have hend := le_fragmentCount_mul hp h.payload.length
  rw [← Transfer.afterFragments_zero hcursor hseq s.cfg] at hq
  obtain ⟨t, hrun, hout, hengine, hqueue⟩ := runAcks_sendsFragments (fragmentCount s.cfg h.payload.length) hvalid he hq
    hlink fun j hj => (lt_fragmentCount_iff hp j _).mp (by omega)
  simp only [Transfer.afterFragments_dataFrame, ← List.range_eq_range', Nat.zero_add] at hrun hout hqueue
  rw [Transfer.afterFragments, Nat.min_eq_right hend] at hqueue
  have hcut := (cutAt_flatten s.cfg h.payload _).trans (List.take_of_length_le hend)
  exact ⟨_, t, hrun, rfl, hcut, hout, hengine, hqueue⟩

end Sys2Proof.Machine
end

section
/-! The receiver of the fragments (R97, R125, R140, R150): one tick per chunk, each of which appends a fragment's body
to the entry of the transfer's key. -/

namespace Sys2Proof

/-- The parameters enter the reading of a chunk only where it holds no real frame (R78, R79). -/
theorem decodeFrame_eq_of_real {p q : Params} {raw : Bytes} {t : Byte} {f : Frame} (h : decodeFrame p raw = (t, f))
    (hreal : f.synthetic = false) : decodeFrame q raw = (t, f) := by
  unfold decodeFrame at h ⊢
  split at h
  · split_ifs at h ⊢ with hrange
    · cases h
      cases hreal
    · exact h
  · cases h
    cases hreal

end Sys2Proof

namespace Sys2Proof.Machine

/-- The kinds 7 to 127 are those of the data rows (R54). -/
theorem isDataRow_rowOfKind : ∀ k : Kind, 7 ≤ k.toNat → isDataRow (rowOfKind k) = true := by decide

theorem peerRow_of_isDataRow {r : KindRow} (hr : isDataRow r = true) (f : Frame) : peerRow r f = dataRow r f := by
  cases r with
  | noop | ping | pong | ack | reject | start | fin => cases hr
  | data7 | data8 | data16 | data32 | data64 => rfl

/-- The two ends have opposite parities (R53). -/
theorem eq_rxParity_of_ne_txParity {p : Params} {o : BitVec 1} (h : o ≠ p.txParity) : o = p.rxParity := by
  have hbit : ∀ a b : BitVec 1, a ≠ b → a = 1 - b := by decide
  exact hbit o p.txParity h

/-- A data type byte is sent under a data type byte (R66). -/
theorem kind_withParity {t : Byte} (h : origin t = 0) (o : BitVec 1) : kind (withParity t o) = kind t := by
  revert t o; decide

/-! ### The store -/

/-- An unbounded store takes a body of a new key as a new entry (R150). -/
theorem rsAppend_opensEntry {r : State} (hstore : r.cfg.rsEntries = none) (hbytes : r.cfg.rsEntryBytes = none)
    {t c : Byte} (hfresh : ∀ e ∈ r.rs, ¬(e.ty = t ∧ e.ctx = c)) (b : Bytes) :
    r.rsAppend t c b = r.setRs (r.rs ++ [⟨t, c, b⟩]) := by
  simp [State.rsAppend, find_hasKey_none hfresh, hstore, hbytes, exceeds]

/-- An unbounded store appends a body to the entry of its key (R150). -/
theorem rsAppend_extendsEntry {r : State} (hbytes : r.cfg.rsEntryBytes = none) {t c : Byte} {pre : List Entry}
    {buf : Bytes} (hfresh : ∀ e ∈ pre, ¬(e.ty = t ∧ e.ctx = c)) (hrs : r.rs = pre ++ [⟨t, c, buf⟩]) (b : Bytes) :
    r.rsAppend t c b = r.setRs (pre ++ [⟨t, c, buf ++ b⟩]) := by
  have hfresh' : ∀ e ∈ pre ++ [], ¬(e.ty = t ∧ e.ctx = c) := by simpa using hfresh
  have hfind := find_hasKey_some (e := ⟨t, c, buf⟩) rfl rfl hfresh'
  have hupdate := updateEntry_one (· ++ b) (e := ⟨t, c, buf⟩) rfl rfl hfresh'
  simp [State.rsAppend, hrs, hfind, hupdate, hbytes, exceeds]

/-! ### The tick on one fragment -/

/-- An engine that takes every frame of the type byte `t`: in `Receiving`, `t` a data type byte of its peer, its
transport working and its store unbounded. -/
structure State.Takes (r : State) (t : Byte) : Prop where
  receiving : r.engine = .receiving
  peerOrigin : origin t ≠ r.cfg.txParity
  dataKind : 7 ≤ (kind t).toNat
  linkUp : r.linkUp
  entries : r.cfg.rsEntries = none
  entryBytes : r.cfg.rsEntryBytes = none

/-- `r` after the tick on a fragment: acknowledged, and the store as given (R125). -/
def State.afterData (r : State) (seq ctx : Byte) (rs : List Entry) : State :=
  ((r.afterSend (sentFrame r.cfg .ack seq ctx [])).setRs rs).setStatus .ok

theorem State.Takes.afterData {r : State} {t : Byte} (h : r.Takes t) (seq ctx : Byte) (rs : List Entry) :
    (r.afterData seq ctx rs).Takes t :=
  { h with linkUp := State.linkUp_tail h.linkUp rfl }

/-- A frame that the other end encoded fires the row of its kind (R81, R110). -/
theorem exec_encodedFrame {p : Params} (hp : p.legal) {r : State} {t : Byte} (ht : origin t ≠ r.cfg.txParity)
    (seq c : Byte) (body : Bytes) :
    exec (decodeInbound r.cfg (encodeFrame p t seq c body)) r =
      finishTick (peerRow (rowOfKind (kind t)) (Frame.encoded p t seq c body) r) := by
  have hdec := decodeFrame_eq_of_real (q := r.cfg) (decodeFrame_encodeFrame hp t seq c body) rfl
  have hvalid : frameValid (peerType r.cfg (rowOfKind (kind t))) (Frame.encoded p t seq c body) = true := by
    rw [peerType_rowOfKind (eq_rxParity_of_ne_txParity ht)]
    exact (frameValid_encoded p t seq c body _).trans (beq_self_eq_true _)
  rw [exec_decodeInbound, hdec, tickOnFrame, if_neg ht, tickOnRow_eq, tickPeerFrame_of_valid hvalid]

/-- A data frame with a body, in `Receiving`, is acknowledged and its body appended (R125). -/
theorem dataRow_of_receiving {s : State} {f : Frame} (he : s.engine = .receiving) (hbody : f.body ≠ [])
    (hready : s.txReady = true) (r : KindRow) :
    dataRow r f s = .ok ((s.afterSend (ackFrame s.cfg f)).rsAppend (peerType s.cfg r) f.ctx f.body) := by
  have hlong : 9 ≤ f.length := Nat.add_le_add_left (List.length_pos_iff.mpr hbody) 8
  rw [dataRow, if_pos ⟨he, hlong⟩, State.send_eq_afterSend hready]
  rfl

/-- A fragment that the other end encoded leaves the store that the append of its body leaves (R125). -/
theorem exec_fragment {p : Params} (hp : p.legal) {r : State} {t c : Byte} (h : r.Takes t) {body : Bytes}
    (hbody : fragmentFits p body = true) (seq : Byte) {rs : List Entry}
    (hrs : (r.afterSend (sentFrame r.cfg .ack seq c [])).rsAppend t c body =
      (r.afterSend (sentFrame r.cfg .ack seq c [])).setRs rs) :
    exec (decodeInbound r.cfg (encodeFrame p t seq c body)) r = .next (r.afterData seq c rs) := by
  obtain ⟨hne, hlen⟩ := fragmentFits_iff.mp hbody
  have hcut : (Frame.encoded p t seq c body).body = body := List.take_of_length_le hlen
  have hrow := dataRow_of_receiving (f := Frame.encoded p t seq c body) h.receiving (by rwa [hcut])
    (State.txReady_of_linkUp h.linkUp) (rowOfKind (kind t))
  rw [peerType_rowOfKind (eq_rxParity_of_ne_txParity h.peerOrigin), hcut] at hrow
  have hbusy : ((r.afterSend (sentFrame r.cfg .ack seq c [])).setRs rs).engine ≠ .idle := by
    simp [State.afterSend, h.receiving]
  calc exec (decodeInbound r.cfg (encodeFrame p t seq c body)) r
    _ = finishTick (dataRow (rowOfKind (kind t)) (Frame.encoded p t seq c body) r) := by
      rw [exec_encodedFrame hp h.peerOrigin, peerRow_of_isDataRow (isDataRow_rowOfKind _ h.dataKind)]
    _ = finishTick (.ok ((r.afterSend (sentFrame r.cfg .ack seq c [])).setRs rs)) := by
      rw [hrow, ← hrs]
      rfl
    _ = .next (r.afterData seq c rs) := finishTick_ok_of_quiet (.inl hbusy)

/-! ### The fragments one after the other -/

section
variable {p : Params} {t c : Byte} {seq : Nat → Byte} {body : Nat → Bytes} {pre : List Entry}

/-- Fragments read one tick each are appended, in order, to the entry that the first of them opened (R97). -/
theorem runChunks_extendsEntry (hp : p.legal) (hfresh : ∀ e ∈ pre, ¬(e.ty = t ∧ e.ctx = c)) (ks : List Nat)
    {r : State} {buf : Bytes} (h : r.Takes t) (hrs : r.rs = pre ++ [⟨t, c, buf⟩])
    (hfits : ∀ k ∈ ks, fragmentFits p (body k) = true) :
    ∃ u, runChunks (ks.map fun k => encodeFrame p t (seq k) c (body k)) r = some u ∧ u.engine = .receiving ∧
      u.rs = pre ++ [⟨t, c, buf ++ (ks.map body).flatten⟩] := by
  induction ks generalizing r buf with
  | nil => exact ⟨r, rfl, h.receiving, by simpa using hrs⟩
  | cons k ks ih =>
    have hstep := exec_fragment hp h (hfits k List.mem_cons_self) (seq k)
      (rsAppend_extendsEntry (r := r.afterSend _) h.entryBytes hfresh hrs (body k))
    obtain ⟨u, hrun, hengine, hu⟩ := ih (h.afterData (seq k) c _) rfl fun j hj => hfits j (List.mem_cons_of_mem k hj)
    refine ⟨u, ?_, hengine, ?_⟩
    · simp only [List.map_cons, runChunks, hstep]
      exact hrun
    · rw [hu, List.append_assoc]
      rfl

/-- Fragments of a new key, read one tick each, build one entry that holds their bodies in order (R97). -/
theorem runChunks_buildsEntry (hp : p.legal) {k : Nat} {ks : List Nat} {r : State} (h : r.Takes t)
    (hfresh : ∀ e ∈ r.rs, ¬(e.ty = t ∧ e.ctx = c)) (hfits : ∀ j ∈ k :: ks, fragmentFits p (body j) = true) :
    ∃ u, runChunks ((k :: ks).map fun j => encodeFrame p t (seq j) c (body j)) r = some u ∧ u.engine = .receiving ∧
      u.rs = r.rs ++ [⟨t, c, ((k :: ks).map body).flatten⟩] := by
  have hstep := exec_fragment hp h (hfits k List.mem_cons_self) (seq k)
    (rsAppend_opensEntry (r := r.afterSend _) h.entries h.entryBytes hfresh (body k))
  obtain ⟨u, hrun, hu⟩ := runChunks_extendsEntry hp hfresh ks (seq := seq) (h.afterData (seq k) c _) rfl
    fun j hj => hfits j (List.mem_cons_of_mem k hj)
  refine ⟨u, ?_, hu⟩
  simp only [List.map_cons, runChunks, hstep]
  exact hrun

end

/-- A fragment of a payload is one that can be sent (R66, R93). -/
theorem cutAt_fits {p : Params} (hp : p.legal) {payload : Bytes} {k : Nat}
    (hk : k < fragmentCount p payload.length) : fragmentFits p (cutAt p payload k) = true := by
  have hmore := (lt_fragmentCount_iff hp k _).mp hk
  have hroom := bodyMax_pos hp
  refine fragmentFits_iff.mpr ⟨List.ne_nil_of_length_pos ?_, List.length_take_le _ _⟩
  simp only [cutAt, List.length_take, List.length_drop]
  omega

/-- Settles O60: the fragments are those of O59; the first opens the entry and the others extend it, to the payload. -/
theorem payloadRoundTrip : Obligations.PayloadRoundTrip := by
  intro s r f h rest hp hvalid he hq hgood hcursor hseq hne hlink _ hparity hreceiving hlink' hentries hbytes hfresh
  obtain ⟨fs, t, hrun, rfl, hcut, _⟩ := fragmentsCarryThePayload s f h rest hp hvalid he hq hcursor hseq hlink
  have htakes : r.Takes (withParity h.dtype s.cfg.txParity) :=
    { receiving := hreceiving, linkUp := hlink', entries := hentries, entryBytes := hbytes
      peerOrigin := by rw [origin_withParity hgood.even]; exact hparity.symm
      dataKind := by rw [kind_withParity hgood.even]; exact hgood.dataKind }
  have hpos : 0 < fragmentCount s.cfg h.payload.length :=
    (lt_fragmentCount_iff hp 0 _).mpr (by simpa using List.length_pos_iff.mpr hne)
  obtain ⟨n, hn⟩ := Nat.exists_eq_add_one.mpr hpos
  have hrange : List.range (fragmentCount s.cfg h.payload.length) = 0 :: (List.range n).map Nat.succ := by
    rw [hn, List.range_succ_eq_map]
  obtain ⟨u, hu, hengine, hrs⟩ := runChunks_buildsEntry (seq := BitVec.ofNat 8) (body := cutAt s.cfg h.payload) hp
    htakes hfresh fun k hk => cutAt_fits hp (List.mem_range.mp (hrange ▸ hk))
  rw [← hrange] at hu hrs
  refine ⟨_, t, u, hrun, hu, hengine, hrs.trans ?_⟩
  exact congrArg (fun buf => r.rs ++ [⟨withParity h.dtype s.cfg.txParity, h.ctx, buf⟩]) hcut

end Sys2Proof.Machine
end

section
/-! The read of a TICK (R105, R176); the transmissions of the control frames and PING, where the transport takes the
frame and where it refuses it (R59 to R65, R107, R159, R176). -/

namespace Sys2Proof.Machine

/-! ### The read -/

/-- Settles O21: the tick on the frame in the chunk is the instruction the chunk decodes to. -/
theorem tickRunsDecodedFrame : Obligations.TickRunsDecodedFrame := fun _ _ hread => execTick_of_read hread

/-- The read returns no chunk exactly where the port reports failure (R32). -/
theorem State.rxRead_eq_none_iff {s : State} : s.rxRead = none ↔ s.rxAns = .fail := by
  unfold State.rxRead
  cases s.rxAns <;> simp

/-- A TICK whose read fails raises the transport failure and ends (R176, R180(a)). -/
theorem execTick_of_failed_read {s : State} (h : s.rxRead = none) : execTick s = .next s.raiseTransportFailure := by
  simp only [execTick, h]

/-- Settles O24: the tick ends at the read, and raising the failure writes `FAULT.IOERR` and the status. -/
theorem failedReadChangesOnlyIoErr : Obligations.FailedReadChangesOnlyIoErr := fun _ hfail =>
  execTick_of_failed_read (State.rxRead_eq_none_iff.mpr hfail)

/-! ### A frame the transport takes -/

/-- START's body holds the remaining length as two bytes, the more significant first (R36, R64). -/
theorem startBody_eq_div_mod (dt : Byte) (rem : BitVec 16) :
    startBody dt rem = [dt, BitVec.ofNat 8 (rem.toNat / 256), BitVec.ofNat 8 (rem.toNat % 256)] := by
  have hhigh : rem.extractLsb' 8 8 = BitVec.ofNat 8 (rem.toNat / 256) := by
    rw [BitVec.extractLsb', Nat.shiftRight_eq_div_pow]
  have hlow : rem.extractLsb' 0 8 = BitVec.ofNat 8 (rem.toNat % 256) := by
    apply BitVec.eq_of_toNat_eq
    simp
  rw [startBody, hhigh, hlow]

/-- Settles O56: each row encodes to the frame its rule gives, and is `Send` of it. -/
theorem controlFramesAreSent : Obligations.ControlFramesAreSent := by
  intro s seq ctx ty dt rem hready
  have hsent : ∀ (i : Instr) (r : KindRow) (q c : Byte) (body : Bytes),
      encode s.cfg i = .outbound (sentFrame s.cfg r q c body) →
        exec i s = .next (s.afterSend (encodeFrame s.cfg (typeByte (kindOf r) s.cfg.txParity) q c body)) :=
    fun _ _ _ _ _ hencode => exec_of_encode_outbound_ready hencode hready
  refine ⟨hsent .txNoop .noop 0 0 [] rfl, hsent .txPing .ping 0 0 [] rfl, hsent (.txPong ctx) .pong 0 ctx [] rfl,
    hsent (.txAck seq ctx) .ack seq ctx [] rfl, hsent (.txReject seq ctx ty) .reject seq ctx [ty] rfl, ?_,
    hsent (.txEnd seq ctx) .fin seq ctx [] rfl⟩
  rw [← startBody_eq_div_mod]
  exact hsent (.txStart seq ctx dt rem) .start seq ctx (startBody dt rem) rfl

/-- Settles O55: the command is `Send` of the PING frame, then its status. -/
theorem pingSendsAtOnce : Obligations.PingSendsAtOnce := by
  intro s hready
  show ((s.send (pingFrame s.cfg)).andThen fun s' => s'.setStatus .ok).toOutcome = _
  rw [State.send_eq_afterSend hready, Sent.andThen_ok, Sent.toOutcome_ok]
  rfl

/-! ### A frame the transport refuses -/

/-- `Send` on a transport that refuses, whatever was to be written after it (R107, R180). -/
theorem State.send_andThen_of_refused {s : State} (h : s.txReady = false) (f : Bytes) (k : State → State) :
    (s.send f).andThen k = .failed s.afterFailedSend := by
  rw [State.send_of_not_ready h, Sent.andThen_failed]
  rfl

theorem State.send_of_refused {s : State} (h : s.txReady = false) (f : Bytes) : s.send f = .failed s.afterFailedSend :=
  State.send_of_not_ready h f

/-- Settles O58: an instruction that encodes to a frame is `Send` of it, which fails. -/
theorem failedTransmissionKeepsLast : Obligations.FailedTransmissionKeepsLast := by
  intro i s f hencode hrefused
  rw [exec_of_encode_outbound hencode, State.send_of_refused hrefused, Sent.toOutcome_failed]

end Sys2Proof.Machine
end

section
/-! Rows whose `Send` fails (R180(b)): each row that sends does so before it writes anything, so that a refused frame
ends the tick with nothing committed. -/

namespace Sys2Proof.Machine

/-! ### A tick on a frame of the peer -/

/-- A frame of the peer with a right checksum: its row, then the end of the tick (R106). -/
theorem exec_rxInstr_of_valid {r : KindRow} {f : Frame} {s : State}
    (h : frameValid (typeByte (kindOf r) s.cfg.rxParity) f = true) :
    exec (rxInstr r f) s = finishTick (peerRow r f s) := by
  rw [exec_rxInstr, tickOnRow_eq, tickPeerFrame_of_valid h]

/-- A frame of the peer with a wrong checksum: REJECT, then the end of the tick (R106, R123). -/
theorem exec_rxInstr_of_invalid {r : KindRow} {f : Frame} {s : State}
    (h : frameValid (typeByte (kindOf r) s.cfg.rxParity) f = false) :
    exec (rxInstr r f) s = finishTick (s.badChecksum (peerType s.cfg r) f) := by
  have hinvalid : ¬frameValid (peerType s.cfg r) f = true := Bool.eq_false_iff.mp h
  rw [exec_rxInstr, tickOnRow_eq, tickPeerFrame, if_neg hinvalid]

/-! ### The rows on a transport that refuses -/

section
variable {s : State} {r : KindRow} {f : Frame}

/-- A row that fails ends the tick at once, without a flush. -/
theorem exec_rxInstr_of_failed_row (hvalid : frameValid (typeByte (kindOf r) s.cfg.rxParity) f = true)
    (hrow : peerRow r f s = .failed s.afterFailedSend) : exec (rxInstr r f) s = .next s.afterFailedSend := by
  rw [exec_rxInstr_of_valid hvalid, hrow, finishTick_failed]

theorem noopRow_of_refused (h : s.txReady = false) (hsends : s.q = [] ∨ s.engine = .idle) :
    noopRow s = .failed s.afterFailedSend := by
  rcases noopRow_cases s with ⟨_, heq⟩ | ⟨_, _, _, _, heq⟩ | ⟨hq, he, _⟩
  · rw [heq, State.send_of_refused h]
  · rw [heq, State.send_andThen_of_refused h]
  · exact absurd hsends (not_or.mpr ⟨hq, he⟩)

theorem ackRow_of_refused (h : s.txReady = false) (hsends : s.engine = .idle ∨ (s.engine = .sending ∧ s.q ≠ [])) :
    ackRow s = .failed s.afterFailedSend := by
  rcases ackRow_cases s with
    ⟨_, heq⟩ | ⟨he, _⟩ | ⟨_, _, _, _, _, heq⟩ | ⟨_, _, _, _, _, heq⟩ | ⟨he, hq, _⟩ | ⟨he, _⟩
  · rw [heq, State.send_of_refused h]
  · simp [he] at hsends
  · rw [heq, State.send_andThen_of_refused h]
  · rw [heq, State.send_andThen_of_refused h]
  · simp [he, hq] at hsends
  · simp [he] at hsends

theorem rejectRow_of_refused (h : s.txReady = false) (hlast : s.lastValid = true) :
    rejectRow s = .failed s.afterFailedSend := by
  rw [rejectRow, if_pos hlast, State.send_of_refused h]

theorem dataRow_of_refused (h : s.txReady = false) (he : s.engine = .receiving) (hlen : 9 ≤ f.length) (r : KindRow) :
    dataRow r f s = .failed s.afterFailedSend := by
  rw [dataRow, if_pos ⟨he, hlen⟩, State.send_andThen_of_refused h]

end

/-- Settles O51: one lemma per row that sends; the others are REJECT of a wrong checksum, and PING. -/
theorem failedSendCommitsNothing : Obligations.FailedSendCommitsNothing := by
  intro s f h
  refine ⟨fun r hinvalid => ?badChecksum, fun hvalid hsends => ?noop, fun hvalid hsends => ?ack,
    fun hvalid hlast => ?reject, fun hvalid => ?start, fun hvalid => ?fin, fun r hr hvalid he hlen => ?data, ?ping⟩
  case badChecksum =>
    rw [exec_rxInstr_of_invalid hinvalid, State.badChecksum, State.send_of_refused h, finishTick_failed]
  case noop => exact exec_rxInstr_of_failed_row (r := .noop) hvalid (noopRow_of_refused h hsends)
  case ack => exact exec_rxInstr_of_failed_row (r := .ack) hvalid (ackRow_of_refused h hsends)
  case reject => exact exec_rxInstr_of_failed_row (r := .reject) hvalid (rejectRow_of_refused h hlast)
  case start => exact exec_rxInstr_of_failed_row (r := .start) hvalid (State.send_andThen_of_refused h _ _)
  case fin => exact exec_rxInstr_of_failed_row (r := .fin) hvalid (State.send_andThen_of_refused h _ _)
  case data =>
    have hrow : peerRow r f s = dataRow r f s := congrFun (peerRow_of_isDataRow hr f) s
    exact exec_rxInstr_of_failed_row hvalid (hrow.trans (dataRow_of_refused h he hlen r))
  case ping => exact congrArg Sent.toOutcome (State.send_andThen_of_refused h _ _)

end Sys2Proof.Machine
end

section
/-! A tick on a working transport (R112, R154): every row goes through and leaves the transport working, and so does the
flush, which empties the store. -/

namespace Sys2Proof.Machine

/-! ### Operations that go through -/

/-- An operation goes through and leaves a transport that accepts every append. -/
def Sent.GoesThrough (r : Sent) : Prop := ∃ x, r = .ok x ∧ x.linkUp

section
variable {s : State}

theorem State.linkUp.send (h : s.linkUp) (f : Bytes) : (s.send f).GoesThrough :=
  ⟨s.afterSend f, State.send_eq_afterSend (State.txReady_of_linkUp h) f, State.linkUp_tail h rfl⟩

/-- Writes to other fields leave the transport as it is. -/
theorem State.linkUp.goesThrough_of_txAns_eq {t : State} (h : s.linkUp) (ht : t.txAns = s.txAns) :
    (Sent.ok t).GoesThrough := ⟨t, rfl, fun b hb => h b (ht ▸ hb)⟩

theorem Sent.GoesThrough.andThen {r : Sent} (h : r.GoesThrough) {k : State → State}
    (hk : ∀ x, (k x).txAns = x.txAns) : (r.andThen k).GoesThrough := by
  obtain ⟨x, rfl, hx⟩ := h
  exact hx.goesThrough_of_txAns_eq (hk x)

theorem State.rsAppend_txAns (s : State) (t c : Byte) (b : Bytes) : (s.rsAppend t c b).txAns = s.txAns := by
  rcases s.rsAppend_cases t c b with ⟨_, _, _, h⟩ | ⟨_, _, _, h⟩ | h <;> rw [h] <;> rfl

theorem State.rsSetMarker_txAns (s : State) (t c : Byte) : (s.rsSetMarker t c).txAns = s.txAns := by
  rcases s.rsSetMarker_cases t c with ⟨_, _, h⟩ | ⟨_, _, h⟩ | h <;> rw [h] <;> rfl

/-! ### The rows -/

theorem noopRow_goesThrough (h : s.linkUp) : (noopRow s).GoesThrough := by
  rcases noopRow_cases s with ⟨_, heq⟩ | ⟨_, _, _, _, heq⟩ | ⟨_, _, heq⟩ <;> rw [heq]
  · exact h.send _
  · exact (h.send _).andThen fun _ => rfl
  · exact h.goesThrough_of_txAns_eq rfl

theorem ackRow_goesThrough (h : s.linkUp) : (ackRow s).GoesThrough := by
  rcases ackRow_cases s with
    ⟨_, heq⟩ | ⟨_, heq⟩ | ⟨_, _, _, _, _, heq⟩ | ⟨_, _, _, _, _, heq⟩ | ⟨_, _, heq⟩ | ⟨_, heq⟩ <;> rw [heq]
  · exact h.send _
  · exact h.goesThrough_of_txAns_eq rfl
  · exact (h.send _).andThen fun _ => rfl
  · exact (h.send _).andThen fun _ => rfl
  · exact h.goesThrough_of_txAns_eq rfl
  · exact h.goesThrough_of_txAns_eq rfl

theorem rejectRow_goesThrough (h : s.linkUp) : (rejectRow s).GoesThrough := by
  rcases rejectRow_cases s with ⟨_, heq⟩ | ⟨_, heq⟩ <;> rw [heq]
  · exact h.send _
  · exact h.goesThrough_of_txAns_eq rfl

theorem dataRow_goesThrough (h : s.linkUp) (r : KindRow) (f : Frame) : (dataRow r f s).GoesThrough := by
  rcases dataRow_cases r f s with ⟨_, _, heq⟩ | ⟨_, heq⟩ <;> rw [heq]
  · exact (h.send _).andThen fun x => x.rsAppend_txAns _ _ _
  · exact h.goesThrough_of_txAns_eq rfl

theorem peerRow_goesThrough (h : s.linkUp) (r : KindRow) (f : Frame) : (peerRow r f s).GoesThrough := by
  cases r with
  | noop => exact noopRow_goesThrough h
  | ping | pong => exact h.goesThrough_of_txAns_eq (s.rsSetMarker_txAns _ _)
  | ack => exact ackRow_goesThrough h
  | reject => exact rejectRow_goesThrough h
  | start | fin => exact (h.send _).andThen fun _ => rfl
  | data7 | data8 | data16 | data32 | data64 => exact dataRow_goesThrough h _ f

/-! ### The end of the tick -/

/-- A tick completes: its status is `OK`, and nothing is left in the store if it ends in `Idle` (R112, R154). -/
def Completes (o : Host.Outcome State Fault Refusal) : Prop :=
  ∃ t, o = .next t ∧ t.status = some .ok ∧ (t.engine = .idle → t.rs = [])

/-- In `Idle` the end of the tick is the flush of the whole store, as in a tick on an own-origin frame. -/
theorem State.linkUp.finishTick_completes (h : s.linkUp) : Completes (finishTick (.ok s)) := by
  by_cases he : s.engine = .idle
  · exact ⟨_, exec_ownOrigin_flushes he h 0 Frame.syntheticNoop, rfl, fun _ => rfl⟩
  · exact ⟨_, finishTick_ok_of_quiet (.inl he), rfl, fun hidle => absurd hidle he⟩

theorem Sent.GoesThrough.finishTick_completes {r : Sent} (h : r.GoesThrough) : Completes (finishTick r) := by
  obtain ⟨x, rfl, hx⟩ := h
  exact hx.finishTick_completes

theorem tickOnRow_completes (h : s.linkUp) (r : KindRow) (f : Frame) : Completes (tickOnRow r f s) := by
  rw [tickOnRow_eq]
  rcases tickPeerFrame_cases r f (peerRow r f) s with ⟨_, heq⟩ | ⟨_, heq⟩ <;> rw [heq]
  · exact (peerRow_goesThrough h r f).finishTick_completes
  · exact (h.send _).finishTick_completes

theorem tickOnFrame_completes (h : s.linkUp) (t : Byte) (f : Frame) : Completes (tickOnFrame t f s) := by
  unfold tickOnFrame
  split
  · exact h.finishTick_completes
  · exact tickOnRow_completes h _ f

end

/-- Settles O23: the tick on the frame in the chunk, of either side, whatever its checksum, goes through to its end. -/
theorem tickCompletes : Obligations.TickCompletes := by
  intro s raw hread hlink
  show Completes (execTick s)
  rw [execTick_of_read hread, exec_decodeInbound]
  exact tickOnFrame_completes hlink _ _

end Sys2Proof.Machine
end

section
/-! `STATE` (R13, R136, R138): five rows of the transition table write it, and nothing else does. -/

namespace Sys2Proof.Machine

/-! ### The shared operations -/

theorem State.send_engine (s : State) (f : Bytes) : (s.send f).state.engine = s.engine := by
  rcases s.send_cases f with ⟨_, h⟩ | ⟨_, h⟩ <;> rw [h] <;> rfl

/-- A `Send` with writes after it leaves the writes on the state after the `Send`, or the failure (R107, R180). -/
theorem State.send_andThen_state (s : State) (f : Bytes) (k : State → State) :
    ((s.send f).andThen k).state = k (s.afterSend f) ∨ ((s.send f).andThen k).state = s.afterFailedSend := by
  rcases s.send_cases f with ⟨_, h⟩ | ⟨_, h⟩ <;> rw [h]
  · exact .inl rfl
  · exact .inr rfl

theorem State.rsAppend_engine (s : State) (t c : Byte) (b : Bytes) : (s.rsAppend t c b).engine = s.engine := by
  rcases s.rsAppend_cases t c b with ⟨_, _, _, h⟩ | ⟨_, _, _, h⟩ | h <;> rw [h] <;> rfl

theorem State.rsSetMarker_engine (s : State) (t c : Byte) : (s.rsSetMarker t c).engine = s.engine := by
  rcases s.rsSetMarker_cases t c with ⟨_, _, h⟩ | ⟨_, _, h⟩ | h <;> rw [h] <;> rfl

theorem State.idleFlush_engine (s : State) : s.idleFlush.state.engine = s.engine := by
  rcases flushEntries_frame s.rs s with ⟨t, h, hsame⟩ | ⟨t, h, hsame⟩ <;> rw [State.idleFlush, h] <;> exact hsame.engine

theorem Sent.andThen_setStatus_engine (r : Sent) (st : Status) :
    (r.andThen fun s => s.setStatus st).state.engine = r.state.engine := by cases r <;> rfl

theorem State.endTick_engine (s : State) : s.endTick.state.engine = s.engine := by
  rw [State.endTick, Sent.andThen_setStatus_engine]
  split
  · exact s.idleFlush_engine
  · rfl

/-- The end of a tick keeps the `STATE` its row left (R154). -/
theorem finishTick_engine {r : Sent} {t : State} (h : finishTick r = .next t) : t.engine = r.state.engine := by
  cases r with
  | ok s =>
    rw [finishTick_ok, Sent.toOutcome_eq] at h
    cases h
    exact s.endTick_engine
  | failed s =>
    cases h
    rfl

/-! ### The rows -/

/-- A row takes `STATE` from that of `s` to `e` and leaves the queue `q`, by one of the five rules (R121, R128, R129,
R130, R132). -/
def State.RowMoves (s : State) (r : KindRow) (e : EngineState) (q : List Transfer) : Prop :=
  match r with
  | .noop => s.engine = .idle ∧ s.q ≠ [] ∧ e = .awaitStartAck
  | .ack => (s.engine = .awaitStartAck ∧ e = .sending) ∨
      ∃ h rest, s.engine = .sending ∧ s.q = h :: rest ∧ h.rem = 0 ∧ e = .idle ∧ q = rest
  | .start => e = .receiving
  | .fin => e = .idle
  | _ => False

theorem noopRow_engine (s : State) : (noopRow s).state.engine = s.engine ∨
    (s.engine = .idle ∧ s.q ≠ [] ∧ (noopRow s).state.engine = .awaitStartAck) := by
  rcases noopRow_cases s with ⟨_, heq⟩ | ⟨h, rest, hq, he, heq⟩ | ⟨_, _, heq⟩ <;> rw [heq]
  · exact .inl (s.send_engine _)
  · rcases s.send_andThen_state (startFrame s.cfg h) fun s' => s'.setEngine .awaitStartAck with hs | hs <;> rw [hs]
    · exact .inr ⟨he, by simp [hq], rfl⟩
    · exact .inl rfl
  · exact .inl rfl

theorem ackRow_engine (s : State) : (ackRow s).state.engine = s.engine ∨
    s.RowMoves .ack (ackRow s).state.engine (ackRow s).state.q := by
  rcases ackRow_cases s with ⟨_, heq⟩ | ⟨he, heq⟩ | ⟨h, rest, _, _, _, heq⟩ | ⟨h, rest, he, hq, hrem, heq⟩ |
    ⟨_, _, heq⟩ | ⟨_, heq⟩ <;> rw [heq]
  · exact .inl (s.send_engine _)
  · exact .inr (.inl ⟨he, rfl⟩)
  · rcases s.send_andThen_state (dataFrame s.cfg h) fun s' => s'.setQ (h.advance s.cfg :: rest) with hs | hs <;> rw [hs]
    · exact .inl rfl
    · exact .inl rfl
  · rcases s.send_andThen_state (endFrame s.cfg h) fun s' => (s'.setQ rest).setEngine .idle with hs | hs <;> rw [hs]
    · exact .inr (.inr ⟨h, rest, he, hq, hrem, rfl, rfl⟩)
    · exact .inl rfl
  · exact .inl rfl
  · exact .inl rfl

theorem rejectRow_engine (s : State) : (rejectRow s).state.engine = s.engine := by
  rcases rejectRow_cases s with ⟨_, h⟩ | ⟨_, h⟩ <;> rw [h]
  · exact s.send_engine _
  · rfl

/-- START and END enter a `STATE` if their ACK goes out (R128, R129). -/
theorem send_andThen_setEngine_engine (s : State) (f : Bytes) (e : EngineState) :
    ((s.send f).andThen fun s' => s'.setEngine e).state.engine = s.engine ∨
      ((s.send f).andThen fun s' => s'.setEngine e).state.engine = e := by
  rcases s.send_andThen_state f fun s' => s'.setEngine e with hs | hs <;> rw [hs]
  · exact .inr rfl
  · exact .inl rfl

theorem dataRow_engine (r : KindRow) (f : Frame) (s : State) : (dataRow r f s).state.engine = s.engine := by
  rcases dataRow_cases r f s with ⟨_, _, heq⟩ | ⟨_, heq⟩ <;> rw [heq]
  · rcases s.send_andThen_state (ackFrame s.cfg f) fun s' => s'.rsAppend (peerType s'.cfg r) f.ctx f.body with
      hs | hs <;> rw [hs]
    · exact State.rsAppend_engine _ _ _ _
    · rfl
  · rfl

/-- A row keeps `STATE` or changes it by one of the five rules. -/
theorem peerRow_engine (r : KindRow) (f : Frame) (s : State) : (peerRow r f s).state.engine = s.engine ∨
    s.RowMoves r (peerRow r f s).state.engine (peerRow r f s).state.q := by
  cases r with
  | noop => exact noopRow_engine s
  | ping | pong => exact .inl (s.rsSetMarker_engine _ _)
  | ack => exact ackRow_engine s
  | reject => exact .inl (rejectRow_engine s)
  | start | fin => exact send_andThen_setEngine_engine s _ _
  | data7 | data8 | data16 | data32 | data64 => exact .inl (dataRow_engine _ f s)

theorem tickOnRow_engine {r : KindRow} {f : Frame} {s t : State} (h : tickOnRow r f s = .next t) :
    t.engine = s.engine ∨ s.RowMoves r t.engine t.q := by
  rw [tickOnRow_eq] at h
  rcases tickPeerFrame_cases r f (peerRow r f) s with ⟨_, heq⟩ | ⟨_, heq⟩ <;> rw [heq] at h <;>
    rw [finishTick_engine h, finishTick_q h]
  · exact peerRow_engine r f s
  · exact .inl (s.send_engine _)

/-! ### The instructions -/

/-- Every instruction is one inbound frame of one side or the other, one frame transmitted, or a host command (R3). -/
theorem instr_cases (i : Instr) (p : Params) :
    (∃ k f, i = .rxOwnOrigin k f) ∨ (∃ r f, i = rxInstr r f) ∨ (∃ f, encode p i = .outbound f) ∨ i = .tick ∨
      (∃ payload ty ctx, i = .submit payload ty ctx) ∨ (∃ ty h, i = .register ty h) ∨ i = .ping := by
  cases i with
  | rxOwnOrigin k f => exact .inl ⟨k, f, rfl⟩
  | rxNoop f => exact .inr (.inl ⟨.noop, f, rfl⟩)
  | rxPing f => exact .inr (.inl ⟨.ping, f, rfl⟩)
  | rxPong f => exact .inr (.inl ⟨.pong, f, rfl⟩)
  | rxAck f => exact .inr (.inl ⟨.ack, f, rfl⟩)
  | rxReject f => exact .inr (.inl ⟨.reject, f, rfl⟩)
  | rxStart f => exact .inr (.inl ⟨.start, f, rfl⟩)
  | rxEnd f => exact .inr (.inl ⟨.fin, f, rfl⟩)
  | rxData0E f => exact .inr (.inl ⟨.data7, f, rfl⟩)
  | rxData10 x f => exact .inr (.inl ⟨.data8 x, f, rfl⟩)
  | rxData20 x f => exact .inr (.inl ⟨.data16 x, f, rfl⟩)
  | rxData40 x f => exact .inr (.inl ⟨.data32 x, f, rfl⟩)
  | rxData80 x f => exact .inr (.inl ⟨.data64 x, f, rfl⟩)
  | txNoop | txPing | txPong | txAck | txReject | txStart | txEnd | txData0F | txData11 | txData21 | txData41
  | txData81 => exact .inr (.inr (.inl ⟨_, rfl⟩))
  | tick | submit | register | ping => simp

theorem execSubmit_engine {payload : Bytes} {ty ctx : Byte} {s t : State}
    (h : execSubmit payload ty ctx s = .next t) : t.engine = s.engine := by
  rcases execSubmit_cases payload ty ctx s with ⟨_, heq⟩ | ⟨_, _, heq⟩ | ⟨_, _, _, heq⟩ | ⟨_, _, _, heq⟩ <;>
    rw [heq] at h <;> cases h <;> rfl

theorem execPing_engine {s t : State} (h : execPing s = .next t) : t.engine = s.engine := by
  rw [execPing, Sent.toOutcome_eq] at h
  cases h
  exact (Sent.andThen_setStatus_engine _ _).trans (s.send_engine _)

/-- An instruction that is no TICK keeps `STATE`, or it is a frame of the peer whose row changes it. -/
theorem exec_engine {i : Instr} {s t : State} (hi : i ≠ .tick) (h : exec i s = .next t) :
    t.engine = s.engine ∨ ∃ r f, i = rxInstr r f ∧ s.RowMoves r t.engine t.q := by
  rcases instr_cases i s.cfg with ⟨k, f, rfl⟩ | ⟨r, f, rfl⟩ | ⟨f, hencode⟩ | rfl | ⟨payload, ty, ctx, rfl⟩ |
    ⟨ty, hd, rfl⟩ | rfl
  · exact .inl (finishTick_engine (r := .ok s) h)
  · rw [exec_rxInstr] at h
    exact (tickOnRow_engine h).imp id fun hmoves => ⟨r, f, rfl, hmoves⟩
  · rw [exec_of_encode_outbound hencode, Sent.toOutcome_eq] at h
    cases h
    exact .inl (s.send_engine f)
  · exact absurd rfl hi
  · exact .inl (execSubmit_engine h)
  · cases h
    exact .inl rfl
  · exact .inl (execPing_engine h)

/-- Settles O29: only the rows of NOOP, ACK, START and END move `STATE`, the one of ACK by two rules. -/
theorem stateChangesByFiveRules : Obligations.StateChangesByFiveRules := by
  intro i s t hi h hchanged
  obtain ⟨r, f, rfl, hmoves⟩ := (exec_engine hi h).resolve_left hchanged
  cases r with
  | noop => exact .inl ⟨f, rfl, hmoves⟩
  | ack =>
    rcases hmoves with hstart | ⟨hd, rest, hend⟩
    · exact .inr (.inl ⟨f, rfl, hstart⟩)
    · exact .inr (.inr (.inl ⟨f, hd, rest, rfl, hend⟩))
  | start => exact .inr (.inr (.inr (.inl ⟨f, rfl, hmoves⟩)))
  | fin => exact .inr (.inr (.inr (.inr ⟨f, rfl, hmoves⟩)))
  | ping | pong | reject | data7 | data8 | data16 | data32 | data64 => exact hmoves.elim

end Sys2Proof.Machine
end

section
/-! The rows of the transition table on a transport that takes their frame (R121 to R135): the state each row leaves,
and the tick that ends on it. -/

namespace Sys2Proof.Machine

/-! ### A tick whose row goes through -/

/-- A `Send` the transport takes, with the writes after it (R107). -/
theorem State.send_andThen_of_ready {s : State} (h : s.txReady = true) (f : Bytes) (k : State → State) :
    (s.send f).andThen k = .ok (k (s.afterSend f)) := by
  rw [State.send_eq_afterSend h, Sent.andThen_ok]

section
variable {s x : State} {r : KindRow} {f : Frame}

/-- A frame of the peer with a right checksum ends its tick on the state its row leaves (R106). -/
theorem tickLeaves_of_row (hvalid : frameValid (typeByte (kindOf r) s.cfg.rxParity) f = true)
    (hrow : peerRow r f s = .ok x) : TickLeaves (exec (rxInstr r f) s) x := by
  rw [exec_rxInstr_of_valid hvalid, hrow]
  exact tickLeaves_finishTick x

/-- If that is not in `Idle`, there is no flush (R154). -/
theorem exec_rxInstr_of_busy_row (hvalid : frameValid (typeByte (kindOf r) s.cfg.rxParity) f = true)
    (hrow : peerRow r f s = .ok x) (hbusy : x.engine ≠ .idle) :
    exec (rxInstr r f) s = .next { x with status := some .ok } :=
  (tickLeaves_of_row hvalid hrow).2 (.inl hbusy)

end

/-- Settles O47: the row of a bad checksum is `Send` of REJECT. -/
theorem badChecksumIsRejected : Obligations.BadChecksumIsRejected := by
  intro r s f hinvalid hready
  rw [exec_rxInstr_of_invalid hinvalid, State.badChecksum, State.send_eq_afterSend hready]
  exact tickLeaves_finishTick _

/-! ### NOOP -/

/-- The length START announces is the number of bytes left, modulo 65536 (R64, log 23). -/
theorem startBody_ofNat (dt : Byte) (n : Nat) :
    startBody dt (BitVec.ofNat 16 n) = [dt, BitVec.ofNat 8 (n / 256), BitVec.ofNat 8 n] := by
  have hhigh : BitVec.ofNat 8 (n % 65536 / 256) = BitVec.ofNat 8 (n / 256) := BitVec.eq_of_toNat_eq (by simp; omega)
  have hlow : BitVec.ofNat 8 (n % 65536 % 256) = BitVec.ofNat 8 n := BitVec.eq_of_toNat_eq (by simp)
  rw [startBody_eq_div_mod, BitVec.toNat_ofNat, hhigh, hlow]

/-- Settles O33: START goes out and `STATE` is written, so that no flush follows. -/
theorem noopStartsTransfer : Obligations.NoopStartsTransfer := by
  intro s f h rest hvalid he hq hready
  have hrow : noopRow s = .ok ((s.afterSend (startFrame s.cfg h)).setEngine .awaitStartAck) := by
    simp only [noopRow, hq, he, if_true, State.send_andThen_of_ready hready]
  show exec (.rxNoop f) s = _
  rw [← startBody_ofNat]
  exact exec_rxInstr_of_busy_row (r := .noop) hvalid hrow (by simp)

/-- Settles O34: the row by the queue. -/
theorem noopKeepsAliveOrWaits : Obligations.NoopKeepsAliveOrWaits := by
  intro s f hvalid
  refine ⟨fun hq hready => tickLeaves_of_row (r := .noop) hvalid ?keepsAlive,
    fun hq he => exec_rxInstr_of_busy_row (r := .noop) hvalid ?waits he⟩
  case keepsAlive =>
    show noopRow s = _
    simp only [noopRow, hq, State.send_eq_afterSend hready]
    rfl
  case waits =>
    obtain ⟨h, rest, hcons⟩ := List.exists_cons_of_ne_nil hq
    simp only [peerRow, noopRow, hcons, he, if_false]

/-! ### ACK -/

/-- Settles O35: the row writes `STATE` alone. -/
theorem ackOfStartEntersSending : Obligations.AckOfStartEntersSending := by
  intro s f hvalid he
  have hrow : ackRow s = .ok (s.setEngine .sending) := by simp only [ackRow, he]
  exact exec_rxInstr_of_busy_row (r := .ack) hvalid hrow (by simp)

/-- Settles O36: the tick of `exec_rxAck_sendsFragment`, its frame and head written out. -/
theorem ackSendsNextFragment : Obligations.AckSendsNextFragment :=
  fun _ _ _ _ hvalid he hq hmore hready =>
    exec_rxAck_sendsFragment hvalid he hq (Nat.sub_pos_of_lt hmore) hready

/-- Settles O37: END goes out, then the head is removed and `STATE` written. -/
theorem ackEndsTransfer : Obligations.AckEndsTransfer := by
  intro s f h rest hvalid he hq hdone hready
  have hmore : h.moreRemains = false := decide_eq_false (by simp [Transfer.rem, hdone])
  have hrow : ackRow s = .ok (((s.afterSend (endFrame s.cfg h)).setQ rest).setEngine .idle) := by
    simp only [ackRow, he, sendingAckRow, hq, hmore, State.send_andThen_of_ready hready, Bool.false_eq_true, if_false]
  exact tickLeaves_of_row (r := .ack) hvalid hrow

/-- Settles O38: the row by `STATE`. -/
theorem ackIdleOrReceiving : Obligations.AckIdleOrReceiving := by
  intro s f hvalid
  refine ⟨fun he hready => tickLeaves_of_row (r := .ack) hvalid ?idle,
    fun he => exec_rxInstr_of_busy_row (r := .ack) hvalid ?receiving (by simp [he])⟩
  case idle =>
    show ackRow s = _
    simp only [ackRow, he, State.send_eq_afterSend hready]
    rfl
  case receiving => simp only [peerRow, ackRow, he]

/-! ### REJECT -/

/-- A frame sent again leaves `LAST` as it is (R127). -/
theorem State.afterSend_lastFrame {s : State} (h : s.lastValid = true) :
    s.afterSend s.lastFrame = { s with out := s.out.extend s.lastFrame, txAns := s.txAns.tail } := by
  rw [State.afterSend, ← h]

/-- Settles O39: the row by `LAST.valid`. -/
theorem rejectResendsLastFrame : Obligations.RejectResendsLastFrame := by
  intro s f hvalid
  refine ⟨fun hlast hready => tickLeaves_of_row (r := .reject) hvalid ?resends,
    fun hlast => tickLeaves_of_row (r := .reject) hvalid ?nothing⟩
  case resends =>
    rw [← State.afterSend_lastFrame hlast]
    exact (if_pos hlast).trans (State.send_eq_afterSend hready _)
  case nothing => exact if_neg (Bool.eq_false_iff.mp hlast)

/-! ### START and END -/

/-- Settles O40: the ACK goes out and `STATE` is written, so that no flush follows. -/
theorem startIsAcknowledged : Obligations.StartIsAcknowledged :=
  fun _ _ hvalid hready =>
    exec_rxInstr_of_busy_row (r := .start) hvalid (State.send_andThen_of_ready hready _ _) (by simp)

/-- Settles O41: the ACK goes out and `STATE` is written. -/
theorem endIsAcknowledged : Obligations.EndIsAcknowledged :=
  fun _ _ hvalid hready => tickLeaves_of_row (r := .fin) hvalid (State.send_andThen_of_ready hready _ _)

end Sys2Proof.Machine
end

section
/-! Data frames (R125, R126, R150, R178): `RsAppend` on stores of any capacity, and the tick it is part of. -/

namespace Sys2Proof.Machine

/-! ### The store -/

section
variable {s : State} {t c : Byte} {b : Bytes}

/-- A body of a new key that has room and fits is a new entry at the end (R150). -/
theorem State.rsAppend_of_new (hfresh : ∀ e ∈ s.rs, ¬(e.ty = t ∧ e.ctx = c))
    (hroom : s.cfg.rsEntries ≠ some s.rs.length) (hfits : exceeds b.length s.cfg.rsEntryBytes = false) :
    s.rsAppend t c b = s.setRs (s.rs ++ [⟨t, c, b⟩]) := by
  simp [State.rsAppend, find_hasKey_none hfresh, hroom, hfits]

/-- A body of a new key that has no room or does not fit is dropped whole (R178). -/
theorem State.rsAppend_of_new_overflow (hfresh : ∀ e ∈ s.rs, ¬(e.ty = t ∧ e.ctx = c))
    (hover : s.cfg.rsEntries = some s.rs.length ∨ exceeds b.length s.cfg.rsEntryBytes = true) :
    s.rsAppend t c b = s.raiseReassemblyOverflow := by
  simp only [State.rsAppend, find_hasKey_none hfresh, if_pos hover]

section
variable {pre post : List Entry} {e : Entry} (hrs : s.rs = pre ++ e :: post) (hty : e.ty = t) (hctx : e.ctx = c)
  (honly : ∀ e' ∈ pre ++ post, ¬(e'.ty = t ∧ e'.ctx = c))
include hrs hty hctx honly

/-- A body that fits grows the entry of its key in place (R150). -/
theorem State.rsAppend_of_entry (hfits : exceeds (e.buf.length + b.length) s.cfg.rsEntryBytes = false) :
    s.rsAppend t c b = s.setRs (pre ++ { e with buf := e.buf ++ b } :: post) := by
  simp [State.rsAppend, hrs, find_hasKey_some hty hctx honly, updateEntry_one _ hty hctx honly, hfits]

/-- A body that does not fit is dropped whole, its entry staying as it is (R178). -/
theorem State.rsAppend_of_entry_overflow (hover : exceeds (e.buf.length + b.length) s.cfg.rsEntryBytes = true) :
    s.rsAppend t c b = s.raiseReassemblyOverflow := by
  simp only [State.rsAppend, hrs, find_hasKey_some hty hctx honly, if_pos hover]

end

end

/-- A body exceeds a capacity where the capacity is bounded and the body longer. -/
theorem exceeds_of_not_fits {n : Nat} {cap : Option Nat} (h : ¬∀ m, cap = some m → n ≤ m) : exceeds n cap = true :=
  Bool.eq_true_of_not_eq_false (mt exceeds_eq_false.mp h)

/-! ### The tick -/

/-- A data frame with a body, in `Receiving`: ACK, then the state its `RsAppend` leaves, and no flush (R125). -/
theorem exec_dataFrame {r : KindRow} {s x : State} {f : Frame} (hr : isDataRow r = true)
    (hvalid : frameValid (typeByte (kindOf r) s.cfg.rxParity) f = true) (he : s.engine = .receiving)
    (hlen : 9 ≤ f.length) (hready : s.txReady = true)
    (happend : (s.afterSend (ackFrame s.cfg f)).rsAppend (peerType s.cfg r) f.ctx f.body = x) :
    exec (rxInstr r f) s = .next { x with status := some .ok } := by
  have hbody : f.body ≠ [] := List.ne_nil_of_length_pos (by unfold Frame.length at hlen; omega)
  have hrow : peerRow r f s = .ok x := by
    rw [peerRow_of_isDataRow hr, dataRow_of_receiving he hbody hready, happend]
  have hreceiving : x.engine = .receiving := by
    rw [← happend, State.rsAppend_engine]
    exact he
  exact exec_rxInstr_of_busy_row hvalid hrow (by simp [hreceiving])

/-- Settles O42: the tick's one `RsAppend`, by whether the store holds the key and the body fits. -/
theorem dataIsAcknowledgedAndAppended : Obligations.DataIsAcknowledgedAndAppended := by
  intro r s f hr hvalid he hlen hready
  refine ⟨fun hfresh hroom hfits => ?new, fun hfresh hover => ?newOverflow, fun pre post e hrs hty hctx honly =>
    ⟨fun hfits => ?entry, fun hover => ?entryOverflow⟩⟩
  case new =>
    have tick := exec_dataFrame hr hvalid he hlen hready
      (State.rsAppend_of_new hfresh (fun hfull => hroom _ hfull rfl) (exceeds_eq_false.mpr hfits))
    exact tick
  case newOverflow =>
    have hfull : s.cfg.rsEntries = some s.rs.length ∨ exceeds f.body.length s.cfg.rsEntryBytes = true := by
      rcases not_and_or.mp hover with hcount | hlong
      · push Not at hcount
        obtain ⟨cap, hcap, hcount⟩ := hcount
        exact .inl (hcap.trans (congrArg some hcount.symm))
      · exact .inr (exceeds_of_not_fits hlong)
    have tick := exec_dataFrame hr hvalid he hlen hready (State.rsAppend_of_new_overflow hfresh hfull)
    exact tick
  case entry =>
    have tick := exec_dataFrame hr hvalid he hlen hready
      (State.rsAppend_of_entry hrs hty hctx honly (exceeds_eq_false.mpr hfits))
    exact tick
  case entryOverflow =>
    have tick := exec_dataFrame hr hvalid he hlen hready
      (State.rsAppend_of_entry_overflow hrs hty hctx honly (exceeds_of_not_fits hover))
    exact tick

/-- Settles O43: the row's condition fails. -/
theorem dataOutsideReceivingIsLost : Obligations.DataOutsideReceivingIsLost := by
  intro r s f hr hvalid hlost
  have hrow : dataRow r f s = .ok s := by
    rcases dataRow_cases r f s with ⟨he, hlen, _⟩ | ⟨_, heq⟩
    · rcases hlost with hother | hempty
      · exact absurd he hother
      · omega
    · exact heq
  exact tickLeaves_of_row hvalid ((congrFun (peerRow_of_isDataRow hr f) s).trans hrow)

end Sys2Proof.Machine
end

section
/-! The first entry of the idle-flush (R155 to R157), and a marker recorded in `Idle`, which the same tick flushes
(R154, R160). -/

namespace Sys2Proof.Machine

/-! ### The end of a tick in `Idle`, by the registry row of the first entry -/

section
variable {s : State} {e : Entry} {es : List Entry} (he : s.engine = .idle) (hrs : s.rs = e :: es)
include he hrs

/-- An entry with a handler is delivered, and the tick ends on the store without it (R155). -/
theorem State.endTick_of_user {h : Handler} (hr : s.regRow (kind e.ty) = .user h) :
    s.endTick = ((s.deliver h e).setRs es).endTick := by
  have hidle : ((s.deliver h e).setRs es).engine = .idle := he
  rw [State.endTick_of_idle he, State.endTick_of_idle hidle, State.idleFlush, hrs, flushEntries, hr]
  rfl

/-- An entry of the default handler is answered with PONG, and the tick ends on the store without it (R156). -/
theorem State.endTick_of_autoPong (hr : s.regRow (kind e.ty) = .autoPong) (hready : s.txReady = true) :
    s.endTick = ((s.afterSend (pongFrame s.cfg e.ctx)).setRs es).endTick := by
  have hidle : ((s.afterSend (pongFrame s.cfg e.ctx)).setRs es).engine = .idle := he
  rw [State.endTick_of_idle he, State.endTick_of_idle hidle, State.idleFlush, hrs, flushEntries, hr,
    State.send_eq_afterSend hready]
  rfl

/-- An entry of an unregistered type is removed, and the tick ends on the store without it (R157). -/
theorem State.endTick_of_unregistered (hr : s.regRow (kind e.ty) = .unregistered) :
    s.endTick = (s.setRs es).endTick := by
  have hidle : (s.setRs es).engine = .idle := he
  rw [State.endTick_of_idle he, State.endTick_of_idle hidle, State.idleFlush, hrs, flushEntries, hr]
  rfl

end

/-- Settles O48: the end of the tick, by the registry row of the first entry. -/
theorem unregisteredEntryIsDropped : Obligations.UnregisteredEntryIsDropped :=
  fun _ _ _ he hrs hr => congrArg Sent.toOutcome (State.endTick_of_unregistered he hrs hr)

/-! ### A marker recorded in `Idle` -/

/-- A marker of a new key that has room is a new entry at the end (R151). -/
theorem State.rsSetMarker_of_new {s : State} {t c : Byte} (hfresh : ∀ e ∈ s.rs, ¬(e.ty = t ∧ e.ctx = c))
    (hroom : s.cfg.rsEntries ≠ some s.rs.length) :
    s.rsSetMarker t c = s.setRs (s.rs ++ [⟨t, c, [s.cfg.marker]⟩]) := by
  simp only [State.rsSetMarker, find_hasKey_none hfresh, if_neg hroom]

theorem peerRow_of_marker {r : KindRow} (hr : r = .ping ∨ r = .pong) (f : Frame) : peerRow r f = markerRow r f := by
  rcases hr with rfl | rfl <;> rfl

/-- The entry a PING or PONG leaves in a store without its key (R151). -/
def State.markerEntry (s : State) (r : KindRow) (f : Frame) : Entry := ⟨peerType s.cfg r, f.ctx, [s.cfg.marker]⟩

theorem State.kind_markerEntry (s : State) (r : KindRow) (f : Frame) : kind (s.markerEntry r f).ty = kindOf r :=
  kind_typeByte _ _

/-- A PING or PONG that finds the store empty ends its tick on the store that holds the marker alone. -/
theorem exec_marker_of_empty {r : KindRow} {s : State} {f : Frame} (hr : r = .ping ∨ r = .pong)
    (hvalid : frameValid (typeByte (kindOf r) s.cfg.rxParity) f = true) (hrs : s.rs = [])
    (hroom : s.cfg.rsEntries ≠ some 0) :
    exec (rxInstr r f) s = (s.setRs [s.markerEntry r f]).endTick.toOutcome := by
  have hmarker : s.rsSetMarker (peerType s.cfg r) f.ctx = s.setRs [s.markerEntry r f] := by
    rw [State.rsSetMarker_of_new (by simp [hrs]) (by simpa [hrs] using hroom), hrs]
    rfl
  rw [exec_rxInstr_of_valid hvalid, peerRow_of_marker hr, markerRow, hmarker, finishTick_ok]

/-- A tick that ends on an emptied store has nothing to flush (R155); the empty store is named as that of `s`, so that what
the tick leaves is `s` but for its effects. -/
theorem State.endTick_setRs_empty {s : State} (hrs : s.rs = []) (x : State) :
    (x.setRs []).endTick.toOutcome = .next { x with rs := s.rs, status := some .ok } := by
  rw [State.endTick_of_empty rfl, hrs]
  rfl

/-- Settles O45: the marker is the only entry of the flush, which leaves the store empty as it was. -/
theorem markerIsFlushedWhenIdle : Obligations.MarkerIsFlushedWhenIdle := by
  intro r s f hr hvalid he hrs hroom
  have hidle : (s.setRs [s.markerEntry r f]).engine = .idle := he
  have hrow : (s.setRs [s.markerEntry r f]).regRow (kind (s.markerEntry r f).ty) = s.regRow (kindOf r) :=
    congrArg s.regRow (s.kind_markerEntry r f)
  rw [exec_marker_of_empty hr hvalid hrs hroom, ← hrow]
  refine ⟨fun hreg hready => ?pong, fun h hreg => ?handler, fun hreg => ?dropped⟩
  case pong =>
    rw [State.endTick_of_autoPong hidle rfl hreg hready, State.endTick_setRs_empty hrs]
    rfl
  case handler =>
    rw [State.endTick_of_user hidle rfl hreg, State.endTick_setRs_empty hrs]
    rfl
  case dropped =>
    rw [State.endTick_of_unregistered hidle rfl hreg, State.endTick_setRs_empty hrs]
    rfl

end Sys2Proof.Machine
end

section
/-! A short or malformed chunk (R79): what the decoder reads in it, and the tick on it. -/

namespace Sys2Proof

/-- R79's three cases of a chunk without a real frame: too short for a header, or a length byte below the header or above
the bytes read. -/
def Malformed (raw : Bytes) : Prop :=
  raw.length < 8 ∨ (raw.getD 3 0).toNat < 8 ∨ raw.length < (raw.getD 3 0).toNat

theorem decodeFrame_of_malformed {raw : Bytes} (h : Malformed raw) (p : Params) :
    decodeFrame p raw = (typeByte 0 p.rxParity, Frame.syntheticNoop) := by
  unfold decodeFrame
  split
  · next => exact if_pos (h.resolve_left (by simp only [List.length_cons]; omega))
  · rfl

/-- The instruction in such a chunk is RX_NOOP (R72). -/
theorem decodeInbound_of_malformed {raw : Bytes} (h : Malformed raw) (p : Params) :
    decodeInbound p raw = .rxNoop Frame.syntheticNoop := by
  rw [decodeInbound, decodeFrame_of_malformed h, classify_peer]
  rfl

end Sys2Proof

namespace Sys2Proof.Machine

/-- A synthetic frame is valid under every type byte (R79). -/
theorem frameValid_syntheticNoop (t : Byte) : frameValid t Frame.syntheticNoop = true := rfl

/-- RX_NOOP reads no field of its frame: valid ones all run the same row (R121, R122, R134). -/
theorem exec_rxNoop_eq_of_valid {s : State} {f g : Frame} (hf : frameValid (typeByte 0 s.cfg.rxParity) f = true)
    (hg : frameValid (typeByte 0 s.cfg.rxParity) g = true) : exec (.rxNoop f) s = exec (.rxNoop g) s :=
  calc exec (.rxNoop f) s
      = finishTick (noopRow s) := exec_rxInstr_of_valid (r := .noop) hf
    _ = exec (.rxNoop g) s := (exec_rxInstr_of_valid (r := .noop) hg).symm

/-- Settles O4: the decoder reads the synthetic NOOP, which is a valid NOOP of the peer and so runs as any other. -/
theorem malformedChunkIsSyntheticNoop : Obligations.MalformedChunkIsSyntheticNoop := by
  intro p raw h d
  have hd : d = (typeByte 0 p.rxParity, Frame.syntheticNoop) := decodeFrame_of_malformed h p
  rw [hd]
  refine ⟨rfl, rfl, rfl, rfl, rfl, rfl, frameValid_syntheticNoop _, decodeInbound_of_malformed h p, ?_⟩
  rintro s f rfl hf
  exact exec_rxNoop_eq_of_valid (frameValid_syntheticNoop _) hf

end Sys2Proof.Machine
end

section
/-! Nothing stops the engine (R170): every operation an instruction ends with answers a next state, and so does every
instruction and every request. -/

namespace Sys2Proof.Machine

/-! ### The instructions -/

theorem tickOnRow_runs (r : KindRow) (f : Frame) (s : State) : Runs (tickOnRow r f s) := by
  rw [tickOnRow_eq, tickPeerFrame]
  exact finishTick_runs _

theorem execTick_runs (s : State) : Runs (execTick s) := by
  rcases execTick_cases s with h | h | ⟨r, f, h⟩ <;> rw [h]
  · exact ⟨_, rfl⟩
  · exact finishTick_runs _
  · exact tickOnRow_runs r f s

theorem execSubmit_runs (payload : Bytes) (ty ctx : Byte) (s : State) : Runs (execSubmit payload ty ctx s) := by
  rcases execSubmit_cases payload ty ctx s with ⟨_, h⟩ | ⟨_, _, h⟩ | ⟨_, _, _, h⟩ | ⟨_, _, _, h⟩ <;> exact ⟨_, h⟩

theorem exec_runs (i : Instr) (s : State) : Runs (exec i s) := by
  rcases exec_cases i s with h | ⟨r, f, h⟩ | ⟨f, h⟩ | rfl | ⟨payload, ty, ctx, rfl⟩ | ⟨ty, hd, rfl⟩ | rfl
  · rw [h]
    exact finishTick_runs _
  · rw [h]
    exact tickOnRow_runs r f s
  · rw [h]
    exact Sent.toOutcome_runs _
  · exact execTick_runs s
  · exact execSubmit_runs payload ty ctx s
  · exact ⟨_, rfl⟩
  · exact Sent.toOutcome_runs _

/-! ### The step -/

/-- Reset cuts a command short in a next state (R191). -/
theorem State.cutShort_runs (s : State) (k : Nat) {o : Host.Outcome State Fault Refusal} (h : Runs o) :
    Runs (s.cutShort k o) := by
  obtain ⟨t, rfl⟩ := h
  exact ⟨s.abandon t k, rfl⟩

theorem step_runs (s : State) : Runs (step s) := by
  rcases pending_cases s with h | ⟨w, peer, rx, tx, rest, h⟩ | ⟨rest, h⟩ | ⟨w, peer, rx, tx, k, rest, h⟩
  · exact ⟨_, step_of_no_request h⟩
  · rw [step_of_command h]
    exact exec_runs _ _
  · exact ⟨_, step_of_reset h⟩
  · rw [step_of_abandoned h]
    exact State.cutShort_runs _ k (exec_runs _ _)

/-- Settles O25: every instruction and every kind of request answers a next state. -/
theorem nothingStopsTheEngine : Obligations.NothingStopsTheEngine := ⟨exec_runs, step_runs⟩

end Sys2Proof.Machine
end

section
/-! The fault bits (R19): no update of a field clears one. -/

namespace Sys2Proof.Machine

/-- The fault bits set in one state are set in the other. -/
def FaultKept (s t : State) : Prop := s.fault &&& t.fault = s.fault

theorem FaultKept.of_eq {s t : State} (h : t.fault = s.fault) : FaultKept s t := by
  rw [FaultKept, h, BitVec.and_self]

theorem FaultKept.setFault (s : State) (b : BitVec 2) : FaultKept s (s.setFault b) := by
  have habsorb : ∀ a b : BitVec 2, a &&& (a ||| b) = a := by decide
  exact habsorb s.fault b

theorem FaultKept.trans {s t u : State} (h : FaultKept s t) (g : FaultKept t u) : FaultKept s u :=
  calc s.fault &&& u.fault
      = s.fault &&& t.fault &&& u.fault := by rw [show s.fault &&& t.fault = s.fault from h]
    _ = s.fault &&& (t.fault &&& u.fault) := BitVec.and_assoc ..
    _ = s.fault := by rw [show t.fault &&& u.fault = t.fault from g]; exact h

theorem Update.faultKept {s t : State} (h : Update s t) : FaultKept s t := by
  cases h with
  | fault b => exact .setFault s b
  | _ => exact .of_eq rfl

theorem Updates.faultKept {s t : State} (h : Updates s t) : FaultKept s t := by
  induction h with
  | refl => exact .of_eq rfl
  | tail _ hu ih => exact ih.trans hu.faultKept

/-- Settles O31: every instruction but REGISTER is a sequence of field updates, which set fault bits at most, and
REGISTER writes `REG` and the status only. -/
theorem faultBitsAreSticky : Obligations.FaultBitsAreSticky := by
  intro i s t h
  by_cases hi : ∃ ty hd, i = .register ty hd
  · obtain ⟨ty, hd, rfl⟩ := hi
    cases h
    exact FaultKept.of_eq rfl
  · exact (exec_updates (fun ty hd he => hi ⟨ty, hd, he⟩) h).faultKept

end Sys2Proof.Machine
end

section
/-! The registry and its tokens (R7, R18, R25, R158): REGISTER writes the row of its kind, no other instruction writes
the registry, and every operation commutes with an exchange of the tokens. -/

namespace Sys2Proof.Machine

/-! ### The writer of the registry -/

theorem Updates.reg {s t : State} (h : Updates s t) : t.reg = s.reg := by
  induction h with
  | refl => rfl
  | tail _ hu ih =>
    refine Eq.trans ?_ ih
    cases hu <;> rfl

/-- Bit 0 of a type byte is not part of its kind (R52). -/
theorem kind_xor_one (t : Byte) : kind (t ^^^ 1) = kind t := by revert t; decide

/-- Settles O54: the command writes one row, and takes from the type byte its kind alone. -/
theorem registerOverwritesRow : Obligations.RegisterOverwritesRow := by
  intro s ty h
  refine ⟨(s.setRegRow (kind ty) (.user h)).setStatus .ok, rfl, ?row, fun k hk => ?otherRow, rfl, ?bitZero⟩
  case row => exact (s.regRow_setRegRow _ _ _).trans (if_pos rfl)
  case otherRow => exact (s.regRow_setRegRow _ _ _).trans (if_neg hk.symm)
  case bitZero =>
    show execRegister (ty ^^^ 1) h s = _
    rw [execRegister, kind_xor_one]

/-! ### Exchanged tokens -/

/-- An operation's result with the tokens exchanged. -/
def Sent.renameHandlers (g : Handler → Handler) : Sent → Sent
  | .ok s => .ok (s.renameHandlers g)
  | .failed s => .failed (s.renameHandlers g)

/-- An outcome with the tokens exchanged. -/
def renameOutcome (g : Handler → Handler) :
    Host.Outcome State Fault Refusal → Host.Outcome State Fault Refusal
  | .next s => .next (s.renameHandlers g)
  | .fault r => .fault r
  | .refused r => .refused r

/-- An instruction with its token exchanged; only REGISTER has one. -/
def renameInstr (g : Handler → Handler) : Instr → Instr
  | .register ty h => .register ty (g h)
  | i => i

theorem renameInstr_of_ne_register (g : Handler → Handler) {i : Instr} (hi : ∀ ty h, i ≠ .register ty h) :
    renameInstr g i = i := by
  cases i with
  | register ty h => exact absurd rfl (hi ty h)
  | _ => rfl

section
variable (g : Handler → Handler) (s : State)

@[simp] theorem State.renameHandlers_cfg : (s.renameHandlers g).cfg = s.cfg := rfl
@[simp] theorem State.renameHandlers_engine : (s.renameHandlers g).engine = s.engine := rfl
@[simp] theorem State.renameHandlers_q : (s.renameHandlers g).q = s.q := rfl
@[simp] theorem State.renameHandlers_lastValid : (s.renameHandlers g).lastValid = s.lastValid := rfl
@[simp] theorem State.renameHandlers_rs : (s.renameHandlers g).rs = s.rs := rfl
@[simp] theorem State.renameHandlers_rxRead : (s.renameHandlers g).rxRead = s.rxRead := rfl

theorem State.regRow_renameHandlers (k : Kind) :
    (s.renameHandlers g).regRow k = (s.regRow k).renameHandlers g := by
  simp [State.regRow, State.renameHandlers, Vector.get_eq_getElem]

theorem State.deliver_renameHandlers (h : Handler) (e : Entry) :
    (s.renameHandlers g).deliver (g h) e = (s.deliver h e).renameHandlers g := by
  simp [State.deliver, State.renameHandlers]

theorem State.setRegRow_renameHandlers (k : Kind) (h : Handler) :
    (s.renameHandlers g).setRegRow k (.user (g h)) = (s.setRegRow k (.user h)).renameHandlers g := by
  simp [State.setRegRow, State.renameHandlers, Vector.map_set, Registration.renameHandlers]

/-! ### The shared operations -/

theorem State.send_renameHandlers (f : Bytes) : (s.renameHandlers g).send f = (s.send f).renameHandlers g := by
  cases h : s.txReady with
  | true => rw [State.send_of_ready h, State.send_of_ready (s := s.renameHandlers g) h]; rfl
  | false => rw [State.send_of_not_ready h, State.send_of_not_ready (s := s.renameHandlers g) h]; rfl

/-- The writes after an operation commute with the exchange if each does. -/
theorem Sent.andThen_renameHandlers (r : Sent) {k : State → State}
    (hk : ∀ x, k (x.renameHandlers g) = (k x).renameHandlers g) :
    (r.renameHandlers g).andThen k = (r.andThen k).renameHandlers g := by
  cases r with
  | ok x => exact congrArg Sent.ok (hk x)
  | failed x => rfl

theorem State.send_andThen_renameHandlers (f : Bytes) {k : State → State}
    (hk : ∀ x, k (x.renameHandlers g) = (k x).renameHandlers g) :
    ((s.renameHandlers g).send f).andThen k = ((s.send f).andThen k).renameHandlers g := by
  rw [State.send_renameHandlers, Sent.andThen_renameHandlers g _ hk]

theorem State.rsAppend_renameHandlers (t c : Byte) (b : Bytes) :
    (s.renameHandlers g).rsAppend t c b = (s.rsAppend t c b).renameHandlers g := by
  rw [State.rsAppend, State.rsAppend, State.renameHandlers_rs, State.renameHandlers_cfg]
  split <;> split <;> rfl

theorem State.rsSetMarker_renameHandlers (t c : Byte) :
    (s.renameHandlers g).rsSetMarker t c = (s.rsSetMarker t c).renameHandlers g := by
  rw [State.rsSetMarker, State.rsSetMarker, State.renameHandlers_rs, State.renameHandlers_cfg]
  split
  · rfl
  · split <;> rfl

theorem flushEntries_renameHandlers (es : List Entry) :
    flushEntries es (s.renameHandlers g) = (flushEntries es s).renameHandlers g := by
  induction es generalizing s with
  | nil => rfl
  | cons e es ih =>
    rw [flushEntries, flushEntries, State.regRow_renameHandlers]
    cases s.regRow (kind e.ty) with
    | user h =>
      simp only [Registration.renameHandlers, State.deliver_renameHandlers]
      exact ih ((s.deliver h e).setRs es)
    | unregistered => exact ih (s.setRs es)
    | autoPong =>
      simp only [Registration.renameHandlers, State.send_renameHandlers, State.renameHandlers_cfg]
      cases s.send (pongFrame s.cfg e.ctx) with
      | ok x => exact ih (x.setRs es)
      | failed x => rfl

theorem State.endTick_renameHandlers : (s.renameHandlers g).endTick = s.endTick.renameHandlers g := by
  by_cases he : s.engine = .idle
  · have hflush : (s.renameHandlers g).idleFlush = s.idleFlush.renameHandlers g := flushEntries_renameHandlers g s s.rs
    rw [State.endTick_of_idle he, State.endTick_of_idle (s := s.renameHandlers g) he, hflush]
    exact Sent.andThen_renameHandlers g _ (k := fun x => x.setStatus .ok) fun _ => rfl
  · rw [State.endTick_of_busy he, State.endTick_of_busy (s := s.renameHandlers g) he]
    rfl

theorem Sent.toOutcome_renameHandlers (r : Sent) :
    (r.renameHandlers g).toOutcome = renameOutcome g r.toOutcome := by cases r <;> rfl

theorem finishTick_renameHandlers (r : Sent) : finishTick (r.renameHandlers g) = renameOutcome g (finishTick r) := by
  cases r with
  | ok x =>
    rw [Sent.renameHandlers, finishTick_ok, State.endTick_renameHandlers, Sent.toOutcome_renameHandlers, finishTick_ok]
  | failed x => rfl

/-! ### The rows -/

theorem noopRow_renameHandlers : noopRow (s.renameHandlers g) = (noopRow s).renameHandlers g := by
  rw [noopRow, noopRow, State.renameHandlers_q, State.renameHandlers_engine]
  split
  · exact s.send_renameHandlers g _
  · split
    · exact s.send_andThen_renameHandlers g _ fun _ => rfl
    · rfl

theorem sendingAckRow_renameHandlers : sendingAckRow (s.renameHandlers g) = (sendingAckRow s).renameHandlers g := by
  rw [sendingAckRow, sendingAckRow, State.renameHandlers_q]
  split
  · rfl
  · split <;> exact s.send_andThen_renameHandlers g _ fun _ => rfl

theorem ackRow_renameHandlers : ackRow (s.renameHandlers g) = (ackRow s).renameHandlers g := by
  rw [ackRow, ackRow, State.renameHandlers_engine]
  split
  · exact s.send_renameHandlers g _
  · rfl
  · exact sendingAckRow_renameHandlers g s
  · rfl

theorem rejectRow_renameHandlers : rejectRow (s.renameHandlers g) = (rejectRow s).renameHandlers g := by
  rw [rejectRow, rejectRow, State.renameHandlers_lastValid]
  split
  · exact s.send_renameHandlers g _
  · rfl

theorem dataRow_renameHandlers (r : KindRow) (f : Frame) :
    dataRow r f (s.renameHandlers g) = (dataRow r f s).renameHandlers g := by
  rw [dataRow, dataRow, State.renameHandlers_engine]
  split
  · exact s.send_andThen_renameHandlers g (ackFrame s.cfg f) (k := fun x => x.rsAppend (peerType x.cfg r) f.ctx f.body)
      fun x => x.rsAppend_renameHandlers g _ _ _
  · rfl

theorem peerRow_renameHandlers (r : KindRow) (f : Frame) :
    peerRow r f (s.renameHandlers g) = (peerRow r f s).renameHandlers g := by
  cases r with
  | noop => exact noopRow_renameHandlers g s
  | ping | pong => exact congrArg Sent.ok (s.rsSetMarker_renameHandlers g _ _)
  | ack => exact ackRow_renameHandlers g s
  | reject => exact rejectRow_renameHandlers g s
  | start | fin => exact s.send_andThen_renameHandlers g _ fun _ => rfl
  | data7 | data8 | data16 | data32 | data64 => exact dataRow_renameHandlers g s _ f

/-! ### The instructions -/

theorem tickOnRow_renameHandlers (r : KindRow) (f : Frame) :
    tickOnRow r f (s.renameHandlers g) = renameOutcome g (tickOnRow r f s) := by
  rw [tickOnRow_eq, tickOnRow_eq, tickPeerFrame, tickPeerFrame, ← finishTick_renameHandlers, State.renameHandlers_cfg]
  split
  · rw [peerRow_renameHandlers]
  · exact congrArg finishTick (s.send_renameHandlers g _)

theorem tickOnFrame_renameHandlers (t : Byte) (f : Frame) :
    tickOnFrame t f (s.renameHandlers g) = renameOutcome g (tickOnFrame t f s) := by
  rw [tickOnFrame, tickOnFrame, State.renameHandlers_cfg]
  split
  · exact finishTick_renameHandlers g (.ok s)
  · exact tickOnRow_renameHandlers g s _ f

theorem execTick_renameHandlers : execTick (s.renameHandlers g) = renameOutcome g (execTick s) := by
  rw [execTick, execTick, State.renameHandlers_rxRead]
  split
  · rfl
  · exact tickOnFrame_renameHandlers g s _ _

theorem execSubmit_renameHandlers (payload : Bytes) (ty ctx : Byte) :
    execSubmit payload ty ctx (s.renameHandlers g) = renameOutcome g (execSubmit payload ty ctx s) := by
  rw [execSubmit, execSubmit, State.renameHandlers_cfg, State.renameHandlers_q]
  split_ifs <;> rfl

theorem execRegister_renameHandlers (ty : Byte) (h : Handler) :
    execRegister ty (g h) (s.renameHandlers g) = renameOutcome g (execRegister ty h s) := by
  rw [execRegister, execRegister, State.setRegRow_renameHandlers]
  rfl

theorem execPing_renameHandlers : execPing (s.renameHandlers g) = renameOutcome g (execPing s) := by
  rw [execPing, execPing, ← Sent.toOutcome_renameHandlers]
  exact congrArg Sent.toOutcome (s.send_andThen_renameHandlers g _ fun _ => rfl)

/-- An instruction with its token exchanged, on a state with its tokens exchanged, does the same, its tokens exchanged
(R7). -/
theorem exec_renameHandlers (i : Instr) :
    exec (renameInstr g i) (s.renameHandlers g) = renameOutcome g (exec i s) := by
  by_cases hi : ∃ ty h, i = .register ty h
  · obtain ⟨ty, h, rfl⟩ := hi
    exact execRegister_renameHandlers g s ty h
  · rw [renameInstr_of_ne_register g fun ty h he => hi ⟨ty, h, he⟩]
    rcases instr_cases i s.cfg with ⟨k, f, rfl⟩ | ⟨r, f, rfl⟩ | ⟨f, hencode⟩ | rfl | ⟨payload, ty, ctx, rfl⟩ |
      ⟨ty, h, rfl⟩ | rfl
    · exact finishTick_renameHandlers g (.ok s)
    · rw [exec_rxInstr, exec_rxInstr, tickOnRow_renameHandlers]
    · rw [exec_of_encode_outbound hencode, exec_of_encode_outbound (s := s.renameHandlers g) hencode,
        State.send_renameHandlers, Sent.toOutcome_renameHandlers]
    · exact execTick_renameHandlers g s
    · exact execSubmit_renameHandlers g s payload ty ctx
    · exact absurd ⟨ty, h, rfl⟩ hi
    · exact execPing_renameHandlers g s

end

theorem exec_renameHandlers_next (g : Handler → Handler) {i : Instr} {s t : State} (h : exec i s = .next t) :
    exec (renameInstr g i) (s.renameHandlers g) = .next (t.renameHandlers g) := by
  rw [exec_renameHandlers, h]
  rfl

/-- Settles O32: field updates leave the registry as it is, and every instruction commutes with an exchange of
tokens. -/
theorem onlyRegisterWritesRegistry : Obligations.OnlyRegisterWritesRegistry := by
  refine ⟨fun i s t h hchanged => ?writer, fun g i s t hi h => ?others, fun g ty hd s t h => ?register⟩
  case writer =>
    by_contra hi
    exact hchanged (exec_updates (fun ty hd he => hi ⟨ty, hd, he⟩) h).reg
  case others =>
    have hrun := exec_renameHandlers_next g h
    rwa [renameInstr_of_ne_register g hi] at hrun
  case register => exact exec_renameHandlers_next g h

end Sys2Proof.Machine
end

section
/-! A recorded marker (R151, R178), on stores of any capacity. -/

namespace Sys2Proof.Machine

section
variable {s : State} {t c : Byte}

/-- A marker of a new key without room is dropped (R178). -/
theorem State.rsSetMarker_of_new_overflow (hfresh : ∀ e ∈ s.rs, ¬(e.ty = t ∧ e.ctx = c))
    (hfull : s.cfg.rsEntries = some s.rs.length) : s.rsSetMarker t c = s.raiseReassemblyOverflow := by
  simp only [State.rsSetMarker, find_hasKey_none hfresh, if_pos hfull]

/-- A marker replaces the buffer of the entry of its key in place (R151). -/
theorem State.rsSetMarker_of_entry {pre post : List Entry} {e : Entry} (hrs : s.rs = pre ++ e :: post)
    (hty : e.ty = t) (hctx : e.ctx = c) (honly : ∀ e' ∈ pre ++ post, ¬(e'.ty = t ∧ e'.ctx = c)) :
    s.rsSetMarker t c = s.setRs (pre ++ { e with buf := [s.cfg.marker] } :: post) := by
  simp only [State.rsSetMarker, hrs, find_hasKey_some hty hctx honly, updateEntry_one _ hty hctx honly]

end

/-- A PING or PONG ends its tick on the store with the marker recorded. -/
theorem tickLeaves_of_marker {r : KindRow} {s x : State} {f : Frame} (hr : r = .ping ∨ r = .pong)
    (hvalid : frameValid (typeByte (kindOf r) s.cfg.rxParity) f = true)
    (hmarker : s.rsSetMarker (peerType s.cfg r) f.ctx = x) : TickLeaves (exec (rxInstr r f) s) x :=
  tickLeaves_of_row hvalid (by rw [peerRow_of_marker hr, markerRow, hmarker])

/-- Settles O44: the row records the marker, by whether the store holds the key and has room. -/
theorem markerIsRecorded : Obligations.MarkerIsRecorded := by
  intro r s f hr hvalid ty fresh
  exact ⟨fun hfresh hroom => tickLeaves_of_marker hr hvalid (State.rsSetMarker_of_new hfresh hroom),
    fun hfresh hfull => tickLeaves_of_marker hr hvalid (State.rsSetMarker_of_new_overflow hfresh hfull),
    fun _ _ _ hrs hty hctx honly => tickLeaves_of_marker hr hvalid (State.rsSetMarker_of_entry hrs hty hctx honly)⟩

end Sys2Proof.Machine
end

section
/-! Reset (R24, R190), the codes of the host commands (R68), and the refusals of SUBMIT (R91). -/

namespace Sys2Proof.Machine

/-! ### Reset -/

/-- The machine right after reset is what a reset makes of it, so that what holds after a reset holds of it (R24,
R190). -/
theorem State.applyReset_reset : State.reset.applyReset = State.reset := rfl

theorem State.regRow_reset (k : Kind) : State.reset.regRow k = if k = 1 then .autoPong else .unregistered :=
  State.regRow_applyReset State.reset k

/-- Settles O13: the fields as `State.reset` gives them, the registry by its rows. -/
theorem resetValues : Obligations.ResetValues :=
  ⟨rfl, rfl, rfl, rfl, State.regRow_reset 1, fun k hk => (State.regRow_reset k).trans (if_neg hk), rfl⟩

/-- Settles O14: the step takes the request and resets. -/
theorem resetRequestResetsTheEngine : Obligations.ResetRequestResetsTheEngine :=
  fun s rest hpending =>
    ⟨({ s with pending := rest } : State).applyReset, step_of_reset hpending, rfl, rfl, rfl, rfl,
      State.regRow_applyReset _ 1, fun k hk => (State.regRow_applyReset _ k).trans (if_neg hk), rfl, rfl, rfl, rfl, rfl,
      rfl⟩

theorem shipped_legal : Params.shipped.legal := by simp [Params.legal, Params.shipped]

/-- Settles O16: reset makes a good state of any state with legal parameters and canonical channels; the machine has
delivered nothing and no request is pending. -/
theorem resetIsGood : Obligations.ResetIsGood := by
  rw [Obligations.ResetIsGood, ← State.applyReset_reset]
  exact State.applyReset_inv shipped_legal State.reset_out_wf State.reset_inp_wf (List.forall_mem_nil _)
    (List.forall_mem_nil _)

/-! ### Host commands -/

/-- Settles O9: the decoder by the code. -/
theorem commandCodes : Obligations.CommandCodes := fun _ _ _ _ => ⟨rfl, rfl, rfl, rfl⟩

/-- Settles O53: each premise rules out the other cases of R90 and R91. -/
theorem submitRefusals : Obligations.SubmitRefusals := by
  intro s payload ty ctx
  have hcases := execSubmit_cases payload ty ctx s
  unfold maxPayload at hcases
  refine ⟨fun hkind => ?refusedType, fun hkind hlen => ?refusedLen, fun hkind hlen hfull => ?refusedFull⟩
  case refusedType =>
    rcases hcases with ⟨_, heq⟩ | ⟨h, _⟩ | ⟨h, _⟩ | ⟨h, _⟩
    · exact heq
    all_goals omega
  case refusedLen =>
    rcases hcases with ⟨h, _⟩ | ⟨_, _, heq⟩ | ⟨_, h, _⟩ | ⟨_, h, _⟩
    · omega
    · exact heq
    all_goals omega
  case refusedFull =>
    rcases hcases with ⟨h, _⟩ | ⟨_, h, _⟩ | ⟨_, _, _, heq⟩ | ⟨_, _, h, _⟩
    · omega
    · omega
    · exact heq
    · exact absurd hfull h

end Sys2Proof.Machine
end
